-- ==== Sys2Proof/Word.lean ====
section
/-! DEFINITION. The words the BC512 exchanges and the numbers it names things by.
Bytes, credentials and masks are what software sees as bits; quantities (power, time, counts) are natural numbers that the
rules hold to their widths by saturation or range (notes/assumptions/22.md). -/

namespace Sys2Proof

/-- One byte of a frame (12.2, 12.5). -/
abbrev Byte := BitVec 8

/-- A credential: the 40-bit number read from a card or tag (00, Terms). -/
abbrev Credential := BitVec 40

/-- A set of zones 0..7, bit n standing for zone n (R46). -/
abbrev ZoneMask := BitVec 8

/-- A bay number 0..511 (00, Terms). -/
abbrev BayNo := Fin 512

/-- A slot number 0..1023 of the Reservation Table (R46). -/
abbrev SlotNo := Fin 1024

/-- A feeder number 0..15 (R4). -/
abbrev FeederNo := Fin 16

/-- A lane number 0..3 of the bay link (R154). -/
abbrev LaneNo := Fin 4

/-- An address 0..127 on a lane (R154). -/
abbrev LaneAddr := Fin 128

/-- The lane of a bay: its bay number div 128 (R154). -/
def laneOf (b : BayNo) : LaneNo := ⟨b.val / 128, by omega⟩

/-- The address of a bay on its lane: its bay number mod 128 (R154). -/
def addrOf (b : BayNo) : LaneAddr := ⟨b.val % 128, by omega⟩

/-- The bay at an address of a lane (R154). -/
def bayAt (l : LaneNo) (a : LaneAddr) : BayNo := ⟨128 * l.val + a.val, by omega⟩

end Sys2Proof
end

