-- ==== Sys2Proof/Syntax.lean ====
section
/-! DEFINITION. The commands of spec/opcode_table.json, one constructor of `Instr` per row, with the row's operands as the
frames of 12.2 and 12.5 carry them (raw field values: which of them are in range is `Instr.wellFormed`'s and check 8's
business, R179). -/

namespace Sys2Proof

/-- The body of a BOOK request, field by field in the order of 12.2. -/
structure BookReq where
  credential : Credential
  cls        : Byte
  large      : Byte
  zoneMask   : ZoneMask
  hold       : BitVec 16
  wait       : BitVec 16
  stay       : BitVec 32
  capPresent : Byte
  cap        : BitVec 16
  pinPresent : Byte
  pin        : BitVec 16
  deriving DecidableEq, Repr

/-- The body of an AMEND request, field by field in the order of 12.2 (cap action: 0 keep, 1 set, 2 remove; R194). -/
structure AmendReq where
  ticket      : BitVec 16
  holdPresent : Byte
  hold        : BitVec 16
  stayPresent : Byte
  stay        : BitVec 32
  capAction   : Byte
  cap         : BitVec 16
  maskPresent : Byte
  mask        : ZoneMask
  deriving DecidableEq, Repr

/-- The commands of the BC512: the steps of spec/opcode_table.json, each whole and indivisible (95).

`begunBusy` of a transaction says that the port was BUSY when SEL fell (R173 judges a transaction by the state at SEL's
falling; notes/assumptions/3.md). -/
inductive Instr where
  /-- R175: a write transaction; `bytes` follow the command byte 0x01. -/
  | writeTransaction (begunBusy : Bool) (bytes : List Byte)
  /-- R176: a read transaction; `count` whole bytes are clocked after the command byte 0x02. -/
  | readTransaction (begunBusy : Bool) (count : Nat)
  /-- R173: a transaction with another command byte, or none whole. -/
  | invalidCommandTransaction (begunBusy : Bool) (command : Option Byte) (count : Nat)
  /-- R58. -/
  | book (q : BookReq)
  /-- R61. -/
  | amend (q : AmendReq)
  /-- R65. -/
  | cancel (ticket : BitVec 16)
  /-- R66. -/
  | release (ticket : BitVec 16)
  /-- R67. -/
  | queryReservation (ticket : BitVec 16)
  /-- R68. -/
  | findCredential (credential : Credential)
  /-- R57. -/
  | listChanges
  /-- R40. -/
  | queryBay (bay : BitVec 16)
  /-- R41. -/
  | setBayServiceOut (bay : BitVec 16)
  /-- R42. -/
  | setBayServiceIn (bay : BitVec 16)
  /-- R43. -/
  | clearStranded (bay : BitVec 16)
  /-- R182, part FIRST. -/
  | loadPlanFirst (body : List Byte)
  /-- R182, part MIDDLE. -/
  | loadPlanMiddle (body : List Byte)
  /-- R182, R183, part LAST. -/
  | loadPlanLast (body : List Byte)
  /-- R182, R183, part ONLY. -/
  | loadPlanOnly (body : List Byte)
  /-- R139. -/
  | queryFeeder (feeder : Byte)
  /-- R148, a non-zero amount. -/
  | curtail (amount : BitVec 16) (duration : BitVec 32)
  /-- R149, amount 0. -/
  | curtailAmountZero (duration : BitVec 32)
  /-- R111. -/
  | setClock (value : BitVec 32)
  /-- R112. -/
  | readClock
  /-- R190. -/
  | readNotices
  /-- R190. -/
  | setNoticeMask (mask : Byte)
  /-- R189. -/
  | setChangeThreshold (threshold : Byte)
  /-- R192. -/
  | snapshotCounters (clear : Byte)
  /-- R192. -/
  | readCounters
  /-- R186: the soft reset. -/
  | reset
  /-- R187: RST asserted. -/
  | hardwareReset
  /-- R110. -/
  | secPulse
  /-- R69: the expiry of a slot's HOLD_END. -/
  | holdEnd (slot : SlotNo)
  /-- R70. -/
  | waitEnd (slot : SlotNo)
  /-- R71. -/
  | stayEnd (slot : SlotNo)
  /-- R37: the expiry of a bay's IDENTIFY_END. -/
  | identifyEnd (bay : BayNo)
  /-- R38. -/
  | graceEnd (bay : BayNo)
  /-- R150. -/
  | curtailEnd
  /-- R166: the reply frame of a POLL is complete on a lane. -/
  | report (lane : LaneNo) (frame : List Byte)
  /-- R161: the reply frame of an ORDER is complete on a lane. -/
  | ack (lane : LaneNo) (frame : List Byte)
  /-- R156: no reply began, or a reply stalled, for the lane's reply timeout. -/
  | replyTimeout (lane : LaneNo)
  /-- R156: a complete reply frame that fails a check. -/
  | badReplyFrame (lane : LaneNo) (frame : List Byte)
  /-- R156: a frame outside an exchange of its lane. -/
  | lateFrame (lane : LaneNo) (frame : List Byte)
  deriving DecidableEq, Repr

end Sys2Proof
end

