-- ==== Sys2Proof/Decode.lean ====
section
/-! DEFINITION. The command a word spells by the bits of spec/opcode_table.json. No row of the table gives bits ("fields" is
empty and "fixed" absent in all 42), so no word spells a command. The frames the booking port and the lanes decode are bytes
that arrive inside commands; they are read in Machine/Operands.lean. -/

namespace Sys2Proof

/-- The command a word of the table's bits spells: none, since the table gives no row any bits. -/
def decodeTableWord (_nbits _w : Nat) : Option Instr := none

end Sys2Proof
end

