-- ==== Sys2Proof/Config.lean ====
section
/-! DEFINITION. What the BC512 fixes once: its capacities and the values its counts saturate at.
The spec calls nothing implementation-defined or undefined, so there is no free value here. -/

namespace Sys2Proof.Config

/-- The top value of the site clock, of due times, of session numbers and of counters (00, Saturation). -/
def max32 : Nat := 0xFFFFFFFF

/-- The value at which the booking sequence counter saturates (R51). -/
def maxBookingSeq : Nat := 0xFFFFFFFFFFFF

/-- The value at which a record's migrations stop (R46, R87). -/
def maxMigrations : Nat := 255

/-- The largest staged plan, in bytes (R1, R7). -/
def maxStagedBytes : Nat := 16384

/-- The largest number of segments of one plan load (R182). -/
def maxSegments : Nat := 64

/-- The size of the frame buffer, in bytes (R174). -/
def frameBufferBytes : Nat := 1024

/-- The largest body of a request frame, in bytes (R177). -/
def maxBodyBytes : Nat := 1016

/-- The most entries one LIST CHANGES returns (R57). -/
def maxListed : Nat := 32

/-- The consecutive orders after which a lane owes a poll (R159). -/
def maxOrdersInARow : Nat := 8

/-- The re-sends after which a post is judged faulty (R167). -/
def maxResends : Nat := 4

/-- The value from which a counter raises COUNTER_HIGH (R191): 2^31. -/
def counterHighMark : Nat := 0x80000000

/-- The weight a w_HIGH field of 0 selects (R2). -/
def defaultWeightHigh : Nat := 2

/-- The weight a w_NORMAL field of 0 selects (R2). -/
def defaultWeightNormal : Nat := 1

end Sys2Proof.Config
end

