-- ==== Sys2Proof/Machine/State.lean ====
section
/-! DEFINITION. The state of the BC512 as plain data, block by block in the spec's own names (00 Block overview), the reasons a
step could stop for, and the state after a hardware reset (R19, R44, R72, R108, R119, R140, R152, R171, R187, R193). -/

namespace Sys2Proof.Machine

/-! ### Names the spec writes in capitals -/

/-- The class of a record or of an allotment entry (R6, R46). -/
inductive VehicleClass where
  | pub | accessible | fleet
  deriving DecidableEq, Repr

/-- A record's priority (R46, R48). -/
inductive Priority where
  | high | normal
  deriving DecidableEq, Repr

/-- A bay's kind (R5). -/
inductive Kind where
  | standard | accessible | large
  deriving DecidableEq, Repr

/-- The states of a live reservation (R46); a FREE slot has no record. -/
inductive ResState where
  | waiting | held | engaged | charging | overstay
  deriving DecidableEq, Repr

/-- The nine states of a bay (R21). -/
inductive BayState where
  | unplanned | free | held | identifying | blocked | engaged | charging | overstay | outOfService
  deriving DecidableEq, Repr

/-- The out-of-service reasons (R22). -/
inductive Reason where
  | unheard | linkLost | postFault | detectorFault | operator
  deriving DecidableEq, Repr

/-- The outcomes of a retirement (R55). -/
inductive Ending where
  | completed | overstayed | leftUncharged | noShow | waitExpired | cancelled | released | leftUnseen | reset
  deriving DecidableEq, Repr

/-- The lamp aspects (R23). -/
inductive Aspect where
  | dark | available | reserved | inUse | outOfService
  deriving DecidableEq, Repr

/-- The last occupancy of a bay (R20). -/
inductive Occupancy where
  | empty | occupied
  deriving DecidableEq, Repr

/-- The occupancy code of a report (R24). -/
inductive OccupancyCode where
  | empty | occupied | detectorFault
  deriving DecidableEq, Repr

/-- The plug state of a post (R20, R24). -/
inductive PlugState where
  | unplugged | plugged | charging | postFault
  deriving DecidableEq, Repr

/-- The link state of a unit (R154, R162). -/
inductive LinkState where
  | unheard | active | silent | lost
  deriving DecidableEq, Repr

/-- The kinds of deadline (R113). -/
inductive DeadlineKind where
  | holdEnd | waitEnd | stayEnd | identifyEnd | graceEnd | curtailEnd
  deriving DecidableEq, Repr

/-- The owner of a deadline (R113). -/
inductive Owner where
  | slot (i : SlotNo)
  | bay (b : BayNo)
  | curtailment
  deriving DecidableEq, Repr

/-- How E is split among feeders (R2). -/
inductive SharingMode where
  | pooled | quota
  deriving DecidableEq, Repr

/-- The ratio setting (R2). -/
inductive RatioSetting where
  | strict | eightToOne | fourToOne | twoToOne
  deriving DecidableEq, Repr

/-- The trim state of a feeder (R142). -/
inductive TrimState where
  | normal | trimmed | eased
  deriving DecidableEq, Repr

/-- The state of the booking port (R174). -/
inductive PortState where
  | ready | busy | reply
  deriving DecidableEq, Repr

/-- The flag of a grant order (R130). -/
inductive OrderFlag where
  | plain | start | stop
  deriving DecidableEq, Repr

/-- The six notice flags (R188), numbered as 12.1 numbers their bits. -/
inductive Notice where
  | changes | bayAlert | feeder | curtailEnded | planApplied | counterHigh
  deriving DecidableEq, Repr

/-- The 18 counters (R191). -/
inductive Counter where
  | bookingsAccepted | bookingsRefused | placedFromWaiting | arrivalsMatched | walkinsAdmitted | arrivalsRefused
  | migrations | reHomes | noShows | waitExpiries | overstays | sessionsStarted | sessionsStarved | linkFailures
  | unitsLost | trimEntries | detectorDisagree | framesDiscarded
  deriving DecidableEq, Repr

/-- The reply statuses (R185). -/
inductive Status where
  | ok | badChecksum | badLength | unknownRequest | badParameter | segmentOrder | planTooLarge | staleTicket | noSuch
  | tableFull | credentialInUse | wrongState | bayTaken | retired | noBay | planConflict | pledgeConflict | planInvalid
  | clockBackward | noPlan
  deriving DecidableEq, Repr

/-! ### The bay plan (chapter 1) -/

/-- The site record (R2). A weight of 0 selects the default (`Site.weight`). -/
structure Site where
  limit         : Nat
  mode          : SharingMode
  wHigh         : Nat
  wNormal       : Nat
  fleetPriority : Priority
  ratio         : RatioSetting
  identifyTime  : Nat
  graceTime     : Nat
  walkInReserve : Nat
  defaultHold   : Nat
  defaultWait   : Nat
  defaultStay   : Nat
  replyTimeouts : Vector Nat 4
  deriving DecidableEq, Repr

/-- A zone record (R3). -/
structure Zone where
  closed     : Bool
  walkInOpen : Bool
  deriving DecidableEq, Repr

/-- A feeder record (R4): limit F_f, quota q_f and the mark fractions hw and lw. -/
structure FeederPlan where
  number   : FeederNo
  limit    : Nat
  quota    : Nat
  highMark : Nat
  lowMark  : Nat
  deriving DecidableEq, Repr

/-- A bay record of the plan (R5). -/
structure BayPlan where
  number : BayNo
  zone   : Fin 8
  feeder : FeederNo
  kind   : Kind
  pmin   : Nat
  pmax   : Nat
  deriving DecidableEq, Repr

/-- A static allotment entry (R6); its number is its place in the list. -/
structure Allotment where
  leading   : Credential
  length    : Nat
  cls       : VehicleClass
  firstBay  : Nat
  count     : Nat
  exclusive : Bool
  deriving DecidableEq, Repr

/-- One complete plan (section 1.2). -/
structure Plan where
  site       : Site
  zones      : Vector Zone 8
  feeders    : List FeederPlan
  bays       : List BayPlan
  allotments : List Allotment
  deriving DecidableEq, Repr

/-! ### The Bay Table, the Feeder Allocator's and the Bay Link's share of a bay -/

/-- A bay record (R20). `place` holds the plan data, absent while the bay is UNPLANNED. -/
structure Bay where
  place           : Option BayPlan := none
  state           : BayState := .unplanned
  reason          : Option Reason := none
  returnRequested : Bool := false
  bound           : Option SlotNo := none
  keptHold        : Bool := false
  occupancy       : Occupancy := .empty
  occupancyHeld   : Bool := false
  plug            : PlugState := .unplugged
  stop            : Bool := false
  credential      : Option Credential := none
  metered         : Nat := 0
  demand          : Nat := 0
  aspect          : Aspect := .dark
  starved         : Bool := false
  deriving DecidableEq, Repr

/-- A grant order handed to a lane (R130); `decrease` is its class, fixed when it is made. -/
structure GrantOrder where
  value    : Nat
  flag     : OrderFlag
  decrease : Bool
  deriving DecidableEq, Repr

/-- A pending target or a held-back increase: a value with its flag (R120). -/
structure GrantValue where
  value : Nat
  flag  : OrderFlag
  deriving DecidableEq, Repr

/-- What the Feeder Allocator holds for a bay (R120). `startQueued` and `startOrdinal` are of the session that runs there:
whether its START has been handed to the lane, and its place in the order of session starts (notes/assumptions/7.md). -/
structure Grants where
  target       : Nat := 0
  acknowledged : Nat := 0
  outstanding  : Option GrantOrder := none
  pending      : Option GrantValue := none
  heldBack     : Option GrantValue := none
  stranded     : Nat := 0
  zeroAcked    : Bool := false
  startQueued  : Bool := false
  startOrdinal : Nat := 0
  deriving DecidableEq, Repr

/-- What a lane holds for one of its units (R154). -/
structure BayUnit where
  link      : LinkState := .unheard
  countdown : Nat := 0
  mismatch  : Nat := 0
  resends   : Nat := 0
  deriving DecidableEq, Repr

/-! ### The Reservation Table -/

/-- A live reservation (R46, R47). `created` is its place in the order of creation (R51; notes/assumptions/7.md). -/
structure Reservation where
  state         : ResState
  credential    : Credential
  cls           : VehicleClass
  priority      : Priority
  large         : Bool
  zoneMask      : ZoneMask
  hold          : Nat
  wait          : Nat
  stay          : Nat
  cap           : Option Nat
  bay           : Option BayNo
  allotment     : Option Nat
  seq           : Nat
  created       : Nat
  arrivedAt     : Option Nat
  session       : Option Nat
  sessionDone   : Bool
  stayExhausted : Bool
  migrations    : Nat
  deriving DecidableEq, Repr

/-- A slot (R46): FREE exactly when it holds no record. -/
structure Slot where
  generation  : Fin 64 := 0
  mark        : Bool := false
  lastOutcome : Option Ending := none
  record      : Option Reservation := none
  deriving DecidableEq, Repr

/-! ### Deadlines, feeders, lanes, port, notices -/

/-- An entry of the deadline list (R113). -/
structure Deadline where
  kind  : DeadlineKind
  owner : Owner
  due   : Nat
  deriving DecidableEq, Repr

/-- What the Load Monitor holds for a defined feeder (R142). -/
structure Monitor where
  load  : Nat := 0
  high  : Nat := 0
  low   : Nat := 0
  state : TrimState := .normal
  step  : Nat := 0
  deriving DecidableEq, Repr

/-- What the allocator and the Load Monitor hold for a feeder (R120, R142): the pledge, X_f, and W_f, B_f, B'_f and A_f of the
latest run. `monitor` is absent while the feeder is undefined. -/
structure Feeder where
  pledge        : Nat := 0
  stranded      : Nat := 0
  want          : Nat := 0
  budget        : Nat := 0
  trimmedBudget : Nat := 0
  sessionBudget : Nat := 0
  monitor       : Option Monitor := none
  deriving DecidableEq, Repr

/-- An entry of a lane's order queue (R158): a grant order, or an aspect-only order when `grant` is absent. `onLine` says that
the exchange in progress carries it. -/
structure Entry where
  bay    : BayNo
  grant  : Option GrantOrder
  flash  : Bool
  onLine : Bool := false
  deriving DecidableEq, Repr

/-- The content of an ORDER, fixed when its exchange starts (R155). `isGrant` tells a grant order's entry from an aspect-only
one. -/
structure OrderContent where
  grant   : Nat
  flag    : OrderFlag
  aspect  : Aspect
  flash   : Bool
  isGrant : Bool
  deriving DecidableEq, Repr

/-- The exchange on a lane's line (R154, R155): a POLL when `order` is absent. `removed`: a plan apply has removed its bay since
it started (R14). `dropped`: a soft reset has dropped its entry (R172). -/
structure Exchange where
  bay     : BayNo
  timeout : Nat
  order   : Option OrderContent
  removed : Bool := false
  dropped : Bool := false
  deriving DecidableEq, Repr

/-- A lane (R154). `sent` records the request frame last sent on TXD (notes/assumptions/6.md). -/
structure Lane where
  queue      : List Entry := []
  line       : Option Exchange := none
  orderCount : Nat := 0
  cursor     : Option LaneAddr := none
  sent       : List Byte := []
  deriving DecidableEq, Repr

/-- The Booking Port (R174). `request` is the request being answered: the one the port has handed to its owner, absent while no
request is in the part (R180, R181). `sequence` is the segment count of the open sequence. `shifted` records what the part shifted
out on MISO in the last transaction (notes/assumptions/6.md). -/
structure Port where
  state    : PortState := .ready
  frame    : List Byte := []
  request  : Option Instr := none
  reply    : Option (List Byte) := none
  sequence : Option Nat := none
  shifted  : List Byte := []
  deriving DecidableEq, Repr

/-- The notice half of the Notice and Counter Unit (R188, R189): the level of the NOTICE line is kept as `lineLow`. -/
structure Notices where
  status    : BitVec 6 := 0
  mask      : BitVec 6 := 0x3F
  threshold : Nat := 1
  lineLow   : Bool := false
  deriving DecidableEq, Repr

/-- The state of the BC512 and the queue of the commands that wait. -/
@[ext]
structure State where
  port        : Port
  plan        : Option Plan
  staged      : List Byte
  bays        : Vector Bay 512
  slots       : Vector Slot 1024
  freeSlots   : List SlotNo
  bookingSeq  : Nat
  creations   : Nat
  highList    : List SlotNo
  normalList  : List SlotNo
  ratioCount  : Nat
  clock       : Nat
  deadlines   : List Deadline
  feeders     : Vector Feeder 16
  effective   : Nat
  grants      : Vector Grants 512
  sessionSeq  : Nat
  starts      : Nat
  curtailment : Nat
  lanes       : Vector Lane 4
  units       : Vector BayUnit 512
  notices     : Notices
  counters    : Vector Nat 18
  snapshot    : Vector Nat 18
  pending     : List Instr
  deriving DecidableEq, Repr

/-- No command faults: the spec answers every event with a next state (INVENTORY.md, Faults), so there is no reason to name. -/
inductive Fault where
  deriving DecidableEq, Repr

/-- The reasons for which a command has no meaning. -/
inductive Refusal where
  /-- Raised by an arm of `exec` for a command that is not modelled yet; safe: the machine stops where the part goes on. -/
  | notModelled (mnemonic : String)
  deriving DecidableEq, Repr

/-- The state after a hardware reset: no plan, every bay UNPLANNED, every slot FREE (R19, R44, R72, R108, R119, R140, R152,
R171, R187, R193). -/
def State.reset : State where
  port        := {}
  plan        := none
  staged      := []
  bays        := Vector.replicate 512 {}
  slots       := Vector.replicate 1024 {}
  freeSlots   := List.finRange 1024
  bookingSeq  := 0
  creations   := 0
  highList    := []
  normalList  := []
  ratioCount  := 0
  clock       := 0
  deadlines   := []
  feeders     := Vector.replicate 16 {}
  effective   := 0
  grants      := Vector.replicate 512 {}
  sessionSeq  := 0
  starts      := 0
  curtailment := 0
  lanes       := Vector.replicate 4 {}
  units       := Vector.replicate 512 {}
  notices     := {}
  counters    := Vector.replicate 18 0
  snapshot    := Vector.replicate 18 0
  pending     := []

end Sys2Proof.Machine
end

