-- ==== Sys2Proof/Machine/Ops.lean ====
section
/-! DEFINITION. The named operations over the records of State that every rule is written with: reading and changing one bay,
slot, feeder, unit or lane; saturating arithmetic; the deadline list (R113 to R115); a bay's state with its lamp aspect (R21,
R23); and the reads of the active plan. -/

namespace Sys2Proof.Machine

/-! ### Saturation (00, Conventions) -/

/-- `a + b`, stopping at `top`. -/
def satAdd (top a b : Nat) : Nat := min (a + b) top

/-! ### Reading and changing one record -/

/-- The record of bay `b` (R20). -/
def State.bay (s : State) (b : BayNo) : Bay := s.bays[b.val]

/-- `s` with the record of bay `b` changed by `f`. -/
def State.modBay (s : State) (b : BayNo) (f : Bay → Bay) : State :=
  { s with bays := s.bays.set b.val (f s.bays[b.val]) }

/-- The allocator's values of bay `b` (R120). -/
def State.grant (s : State) (b : BayNo) : Grants := s.grants[b.val]

/-- `s` with the allocator's values of bay `b` changed by `f`. -/
def State.modGrant (s : State) (b : BayNo) (f : Grants → Grants) : State :=
  { s with grants := s.grants.set b.val (f s.grants[b.val]) }

/-- The link values of the unit of bay `b` (R154). -/
def State.unit (s : State) (b : BayNo) : BayUnit := s.units[b.val]

/-- `s` with the link values of the unit of bay `b` changed by `f`. -/
def State.modUnit (s : State) (b : BayNo) (f : BayUnit → BayUnit) : State :=
  { s with units := s.units.set b.val (f s.units[b.val]) }

/-- Slot `i` (R46). -/
def State.slot (s : State) (i : SlotNo) : Slot := s.slots[i.val]

/-- `s` with slot `i` changed by `f`. -/
def State.modSlot (s : State) (i : SlotNo) (f : Slot → Slot) : State :=
  { s with slots := s.slots.set i.val (f s.slots[i.val]) }

/-- The live record of slot `i`, if any (R46). -/
def State.record (s : State) (i : SlotNo) : Option Reservation := (s.slot i).record

/-- `s` with the live record of slot `i`, if any, changed by `f`. -/
def State.modRecord (s : State) (i : SlotNo) (f : Reservation → Reservation) : State :=
  s.modSlot i fun x => { x with record := x.record.map f }

/-- Feeder `f` (R120, R142). -/
def State.feeder (s : State) (f : FeederNo) : Feeder := s.feeders[f.val]

/-- `s` with feeder `f` changed by `g`. -/
def State.modFeeder (s : State) (f : FeederNo) (g : Feeder → Feeder) : State :=
  { s with feeders := s.feeders.set f.val (g s.feeders[f.val]) }

/-- Lane `l` (R154). -/
def State.lane (s : State) (l : LaneNo) : Lane := s.lanes[l.val]

/-- `s` with lane `l` changed by `f`. -/
def State.modLane (s : State) (l : LaneNo) (f : Lane → Lane) : State :=
  { s with lanes := s.lanes.set l.val (f s.lanes[l.val]) }

/-- The bays in ascending number. -/
@[irreducible] def allBays : List BayNo := List.finRange 512

/-- The slots in ascending number. -/
@[irreducible] def allSlots : List SlotNo := List.finRange 1024

/-- The feeders in ascending number. -/
@[irreducible] def allFeeders : List FeederNo := List.finRange 16

/-- The lanes in ascending number. -/
@[irreducible] def allLanes : List LaneNo := List.finRange 4

/-! ### Reads of the active plan -/

/-- The site limit S: 0 while no plan is active (R1). -/
def State.siteLimit (s : State) : Nat := (s.plan.map (·.site.limit)).getD 0

/-- The identify time (R2); no bay identifies while no plan is active. -/
def State.identifyTime (s : State) : Nat := (s.plan.map (·.site.identifyTime)).getD 0

/-- The grace time (R2). -/
def State.graceTime (s : State) : Nat := (s.plan.map (·.site.graceTime)).getD 0

/-- The static allotment list of the active plan: empty while no plan is active (R74). -/
def State.allotments (s : State) : List Allotment := (s.plan.map (·.allotments)).getD []

/-- The plan record of feeder `f`, absent where the plan does not define it (R4). -/
def State.feederPlan (s : State) (f : FeederNo) : Option FeederPlan :=
  s.plan.bind fun p => p.feeders.find? (·.number == f)

/-- The limit F_f: an undefined feeder has none and is given 0 (R4). -/
def State.feederLimit (s : State) (f : FeederNo) : Nat := ((s.feederPlan f).map (·.limit)).getD 0

/-- Zone `z` of the active plan (R3). -/
def State.zone (s : State) (z : Fin 8) : Option Zone := s.plan.map fun p => p.zones[z.val]

/-- The weight of a session's priority: a field of 0 selects the default (R2). -/
def Site.weight (w : Site) : Priority → Nat
  | .high => if w.wHigh = 0 then Config.defaultWeightHigh else w.wHigh
  | .normal => if w.wNormal = 0 then Config.defaultWeightNormal else w.wNormal

/-- The feeder of bay `b`, absent while it is UNPLANNED (R5). -/
def State.feederOf (s : State) (b : BayNo) : Option FeederNo := (s.bay b).place.map (·.feeder)

/-- pmin of bay `b`. -/
def State.pminOf (s : State) (b : BayNo) : Nat := ((s.bay b).place.map (·.pmin)).getD 0

/-- Whether bay `b` stands on feeder `f`. -/
def State.onFeeder (s : State) (f : FeederNo) (b : BayNo) : Bool := s.feederOf b == some f

/-- `s` with the feeder of bay `b`, if it has one, changed by `g`. -/
def State.modFeederOf (s : State) (b : BayNo) (g : Feeder → Feeder) : State :=
  match s.feederOf b with
  | some f => s.modFeeder f g
  | none => s

/-! ### The deadline list (R113 to R115) -/

/-- The due time a duration gives: now plus the duration, saturating (R114). -/
def State.dueIn (s : State) (seconds : Nat) : Nat := satAdd Config.max32 s.clock seconds

/-- The list with `d` at its place: behind every entry due no later, ahead of every entry due later (R113). -/
def insertByDue (d : Deadline) : List Deadline → List Deadline
  | [] => [d]
  | e :: es => if d.due < e.due then d :: e :: es else e :: insertByDue d es

/-- Removal of the owner's entry, wherever it stands (R115). -/
def State.dropDeadline (s : State) (o : Owner) : State :=
  { s with deadlines := s.deadlines.filter fun d => d.owner != o }

/-- Insertion of an entry with a given due time; the owner's old entry is removed first (R115). -/
def State.setDeadline (s : State) (k : DeadlineKind) (o : Owner) (due : Nat) : State :=
  { s with deadlines := insertByDue ⟨k, o, due⟩ (s.deadlines.filter fun d => d.owner != o) }

/-- Insertion of an entry with a duration (R114). -/
def State.startDeadline (s : State) (k : DeadlineKind) (o : Owner) (seconds : Nat) : State :=
  s.setDeadline k o (s.dueIn seconds)

/-- The entry an owner holds, if any (R113: at most one). -/
def State.deadlineOf (s : State) (o : Owner) : Option Deadline := s.deadlines.find? fun d => d.owner == o

/-! ### A bay's state and its lamp aspect (R21, R23) -/

/-- The lamp aspect of a bay state (R23). -/
def BayState.aspect : BayState → Aspect
  | .unplanned => .dark
  | .free => .available
  | .held => .reserved
  | .identifying | .blocked | .engaged | .charging | .overstay => .inUse
  | .outOfService => .outOfService

/-- A bay moved to an in-service state, its aspect following (R23). -/
def Bay.enter (x : Bay) (st : BayState) : Bay := { x with state := st, aspect := st.aspect, reason := none }

/-- A bay made OUT_OF_SERVICE for a reason, its aspect following (R22, R23). -/
def Bay.takenOut (x : Bay) (r : Reason) : Bay :=
  { x with state := .outOfService, aspect := BayState.aspect .outOfService, reason := some r }

/-- `s` with bay `b` moved to an in-service state. -/
def State.enter (s : State) (b : BayNo) (st : BayState) : State := s.modBay b (·.enter st)

/-- `s` with bay `b` OUT_OF_SERVICE for reason `r`. -/
def State.takeOut (s : State) (b : BayNo) (r : Reason) : State := s.modBay b (·.takenOut r)

/-- A bay in service: any state but UNPLANNED and OUT_OF_SERVICE (R26). -/
def BayState.inService : BayState → Bool
  | .unplanned | .outOfService => false
  | .free | .held | .identifying | .blocked | .engaged | .charging | .overstay => true

/-- The slot whose session runs at bay `b`, if any: the bay's bound record in state CHARGING (R120). -/
def State.sessionAt (s : State) (b : BayNo) : Option SlotNo :=
  match (s.bay b).bound with
  | none => none
  | some i =>
    match s.record i with
    | some r => if r.state = .charging then some i else none
    | none => none

/-- Whether a session runs at bay `b` (R120). -/
def State.charging (s : State) (b : BayNo) : Bool := (s.sessionAt b).isSome

/-- The number of FREE slots: the length of the free-slot list (R50). -/
def State.freeCount (s : State) : Nat := s.freeSlots.length

end Sys2Proof.Machine
end

