-- ==== Sys2Proof/Machine/Flags.lean ====
section
/-! DEFINITION. Every flag and tally of the Notice and Counter Unit and the change marks that feed it: the notice status, the
mask and the NOTICE line (R188 to R190), the counters (R191), the change marks and the marked count (R56, R189). -/

namespace Sys2Proof.Machine

/-! ### Notices -/

/-- The bit of a flag in the notice status and mask (12.1). -/
def Notice.bit : Notice → Nat
  | .changes => 0
  | .bayAlert => 1
  | .feeder => 2
  | .curtailEnded => 3
  | .planApplied => 4
  | .counterHigh => 5

/-- The one-bit word of a flag. -/
def Notice.word (n : Notice) : BitVec 6 := (1 : BitVec 6) <<< n.bit

/-- The NOTICE line driven from the status and the mask: low while a flag is set with its mask bit clear (R188). -/
def Notices.drive (n : Notices) : Notices := { n with lineLow := (n.status &&& ~~~n.mask) != 0 }

/-- The status with a flag set, the line driven (R188). -/
def Notices.raise (n : Notices) (f : Notice) : Notices := { n with status := n.status ||| f.word }.drive

/-- The status with a flag cleared, the line driven. -/
def Notices.clear (n : Notices) (f : Notice) : Notices := { n with status := n.status &&& ~~~f.word }.drive

/-- Whether a flag is set. -/
def Notices.isSet (n : Notices) (f : Notice) : Bool := (n.status &&& f.word) != 0

/-- CHANGES evaluated against a marked count (R189). -/
def Notices.evaluate (n : Notices) (count : Nat) : Notices :=
  if n.threshold ≤ count then n.raise .changes else if count = 0 then n.clear .changes else n

/-- `s` with a notice flag raised (R188). -/
def State.raise (s : State) (f : Notice) : State := { s with notices := s.notices.raise f }

/-! ### Counters -/

/-- A counter's number (R191). -/
def Counter.index : Counter → Fin 18
  | .bookingsAccepted => 0
  | .bookingsRefused => 1
  | .placedFromWaiting => 2
  | .arrivalsMatched => 3
  | .walkinsAdmitted => 4
  | .arrivalsRefused => 5
  | .migrations => 6
  | .reHomes => 7
  | .noShows => 8
  | .waitExpiries => 9
  | .overstays => 10
  | .sessionsStarted => 11
  | .sessionsStarved => 12
  | .linkFailures => 13
  | .unitsLost => 14
  | .trimEntries => 15
  | .detectorDisagree => 16
  | .framesDiscarded => 17

/-- The value of a counter. -/
def State.counter (s : State) (c : Counter) : Nat := s.counters[c.index.val]

/-- A counter increased by one, saturating; the increment that reaches 2^31 raises COUNTER_HIGH (R191). -/
def State.bump (s : State) (c : Counter) : State :=
  let old := s.counters[c.index.val]
  let t := { s with counters := s.counters.set c.index.val (satAdd Config.max32 old 1) }
  if old + 1 = Config.counterHighMark then t.raise .counterHigh else t

/-! ### Change marks -/

/-- The marked count: the number of marked slots (R56). -/
def State.markedCount (s : State) : Nat := s.slots.toList.countP (·.mark)

/-- The present marked count handed to the Notice and Counter Unit (R56, R189). -/
def State.evaluateChanges (s : State) : State := { s with notices := s.notices.evaluate s.markedCount }

/-- The change mark of slot `i` set, and the new marked count handed over (R56). -/
def State.setMark (s : State) (i : SlotNo) : State :=
  (s.modSlot i fun x => { x with mark := true }).evaluateChanges

end Sys2Proof.Machine
end

