-- ==== Sys2Proof/Machine/Orders.lean ====
section
/-! DEFINITION. Orders and their queues: a lane's order queue (R158), grant orders and committed grants (R130), STOP orders
(R135), a feeder's gate (R132), the acknowledgement of an order (R133), stranded grants (R136, R137), and the aspect orders at
an event's end (R23). -/

namespace Sys2Proof.Machine

/-! ### The order queue of a lane (R158) -/

/-- A grant order joins at the tail; an aspect-only entry queued for the unit leaves, its refuse flash taken over. -/
def queueGrant (b : BayNo) (o : GrantOrder) (q : List Entry) : List Entry :=
  let merged := q.filter fun e => e.bay == b && e.grant.isNone && !e.onLine
  q.filter (fun e => !(e.bay == b && e.grant.isNone && !e.onLine)) ++ [⟨b, some o, merged.any (·.flash), false⟩]

/-- The refuse flash set on the first entry queued for a unit. -/
def flashFirst (b : BayNo) : List Entry → List Entry
  | [] => []
  | e :: es => if e.bay == b && !e.onLine then { e with flash := true } :: es else e :: flashFirst b es

/-- An aspect-only order joins at the tail, or merges into the entry queued for the unit. An entry on the line is not queued
for this purpose. -/
def queueAspect (b : BayNo) (flash : Bool) (q : List Entry) : List Entry :=
  if q.any fun e => e.bay == b && !e.onLine then (if flash then flashFirst b q else q)
  else q ++ [⟨b, none, flash, false⟩]

/-- Whether the lane reaches a unit with orders: not while it is UNHEARD or LOST (R158). -/
def LinkState.reachable : LinkState → Bool
  | .active | .silent => true
  | .unheard | .lost => false

/-- An aspect-only order handed to the lane of bay `b`: discarded for an UNHEARD or LOST unit (R158). -/
def State.aspectOrder (s : State) (b : BayNo) (flash : Bool) : State :=
  if (s.unit b).link.reachable then s.modLane (laneOf b) fun l => { l with queue := queueAspect b flash l.queue } else s

/-- The aspect orders of an event that began at `before`: each planned bay left with another aspect than it had has the new one
handed to its lane, in ascending bay number (R23). -/
def State.aspectOrders (before s : State) : State :=
  allBays.foldl (fun t b =>
    if (t.bay b).place.isSome && (t.bay b).aspect != (before.bay b).aspect then t.aspectOrder b false else t) s

/-! ### Grant orders (R130) -/

/-- The committed grant: the most the post may be drawing on the allocator's own account (R130). -/
def Grants.committed (g : Grants) : Nat := max g.acknowledged ((g.outstanding.map (·.value)).getD 0)

/-- A grant order of a value made for bay `b` and handed to its lane: it becomes outstanding, its class fixed against the
committed grant, and a START counts as queued from this moment (R130, R131). -/
def State.handGrant (s : State) (b : BayNo) (value : Nat) (flag : OrderFlag) : State :=
  let o : GrantOrder := ⟨value, flag, decide (value < (s.grant b).committed)⟩
  let t := s.modGrant b fun g => { g with outstanding := some o, startQueued := g.startQueued || flag == .start }
  t.modLane (laneOf b) fun l => { l with queue := queueGrant b o l.queue }

/-- A STOP order of grant 0: queued at once, or the pending target behind an outstanding order (R135, R137). -/
def State.makeStop (s : State) (b : BayNo) : State :=
  match (s.grant b).outstanding with
  | none => s.handGrant b 0 .stop
  | some _ => s.modGrant b fun g => { g with pending := some ⟨0, .stop⟩ }

/-! ### The gate of a feeder (R132) -/

/-- Whether a bay's orders hold its feeder's gate closed: an outstanding decrease order, or a pending target below its
committed grant. A bay OUT_OF_SERVICE(POST_FAULT) holds no gate. -/
def State.holdsGate (s : State) (b : BayNo) : Bool :=
  let g := s.grant b
  let faulty := (s.bay b).state == .outOfService && (s.bay b).reason == some .postFault
  let decreasing := match g.outstanding with | some o => o.decrease | none => false
  let pendingBelow := match g.pending with | some p => decide (p.value < g.committed) | none => false
  !faulty && (decreasing || pendingBelow)

/-- Whether the gate of feeder `f` is open. -/
def State.gateOpen (s : State) (f : FeederNo) : Bool := allBays.all fun b => !(s.onFeeder f b && s.holdsGate b)

/-- The held-back increase of one bay released: queued, or pending behind an outstanding order (R132). -/
def State.releaseIncrease (s : State) (b : BayNo) : State :=
  match (s.grant b).heldBack with
  | none => s
  | some v =>
    let t := s.modGrant b fun g => { g with heldBack := none }
    match (s.grant b).outstanding with
    | none => t.handGrant b v.value v.flag
    | some _ => t.modGrant b fun g => { g with pending := some v }

/-- The held-back increases of feeder `f` released in ascending bay number. -/
def State.releaseIncreases (s : State) (f : FeederNo) : State :=
  allBays.foldl (fun t b => if t.onFeeder f b then t.releaseIncrease b else t) s

/-- The gate of feeder `f` tested, and its increases released if it is open (R132). -/
def State.testGate (s : State) (f : FeederNo) : State := if s.gateOpen f then s.releaseIncreases f else s

/-- The gate of the feeder of bay `b` tested. -/
def State.testGateOf (s : State) (b : BayNo) : State :=
  match s.feederOf b with
  | some f => s.testGate f
  | none => s

/-- Whether the gate of the feeder of bay `b` is open. -/
def State.gateOpenOf (s : State) (b : BayNo) : Bool :=
  match s.feederOf b with
  | some f => s.gateOpen f
  | none => true

/-! ### Acknowledgement (R133) -/

/-- The pending target of bay `b` settled against its new acknowledged grant (R133). -/
def State.settlePending (s : State) (b : BayNo) : State :=
  match (s.grant b).pending with
  | none => s
  | some p =>
    let a := (s.grant b).acknowledged
    let t := s.modGrant b fun g => { g with pending := none }
    if p.value < a then t.handGrant b p.value p.flag
    else if p.value = a then (if p.flag = .start then t.handGrant b p.value p.flag else t)
    else if t.gateOpenOf b then t.handGrant b p.value p.flag
    else t.modGrant b fun g => { g with heldBack := some p }

/-- The acknowledgement of the outstanding grant order of bay `b` (R133). -/
def State.acknowledge (s : State) (b : BayNo) : State :=
  match (s.grant b).outstanding with
  | none => s
  | some o =>
    let t := s.modGrant b fun g =>
      { g with acknowledged := o.value, outstanding := none,
               zeroAcked := g.zeroAcked || (o.value == 0 && decide (0 < g.stranded)) }
    (t.settlePending b).testGateOf b

/-! ### Stranded grants (R136, R137) -/

/-- A stranded grant set: never lowered, X_f raised by the difference, the zero-acknowledged flag cleared (R136). -/
def State.strand (s : State) (b : BayNo) (value : Nat) : State :=
  let old := (s.grant b).stranded
  let t := s.modGrant b fun g => { g with stranded := max old value, zeroAcked := false }
  t.modFeederOf b fun f => { f with stranded := f.stranded + (max old value - old) }

/-- A stranded grant cleared, X_f lowered by the amount (R43, R137). -/
def State.clearStrandedGrant (s : State) (b : BayNo) : State :=
  let old := (s.grant b).stranded
  let t := s.modGrant b fun g => { g with stranded := 0 }
  t.modFeederOf b fun f => { f with stranded := f.stranded - old }

end Sys2Proof.Machine
end

