-- ==== Sys2Proof/Machine/Allocation.lean ====
section
/-! DEFINITION. The allocation run: the site to the feeders (R123 to R126), a feeder to its sessions (R127, R128), the targets
written (R129), and their settlement into grant orders (R131, R134). -/

namespace Sys2Proof.Machine

/-! ### Level A: the site to the feeders -/

/-- The effective site budget E = max(0, S − C) (R123, R151). -/
def State.siteBudget (s : State) : Nat := s.siteLimit - s.curtailment

/-- A session as the run reads it (R123): its bay's pmin, its cap, its weight, the keys of the grant order, and the grant the
run gives it. `served` says that it was granted its minimum. -/
structure Session where
  bay     : BayNo
  pmin    : Nat
  cap     : Nat
  weight  : Nat
  high    : Bool
  number  : Nat
  ordinal : Nat
  grant   : Nat := 0
  served  : Bool := false

/-- The cap of a session (R123): d is the smaller of the demand cap and the reported demand, taking only those present and
non-zero, or pmax; it is clamped into pmin..pmax. -/
def sessionCap (pmin pmax : Nat) (demandCap : Option Nat) (demand : Nat) : Nat :=
  let d :=
    match demandCap with
    | some c => if c = 0 then (if demand = 0 then pmax else demand) else if demand = 0 then c else min c demand
    | none => if demand = 0 then pmax else demand
  max pmin (min pmax d)

/-- The running session of bay `b`, if any, as the run reads it. -/
def State.sessionOf (s : State) (b : BayNo) : Option Session :=
  match s.plan, (s.bay b).place, (s.sessionAt b).bind s.record with
  | some plan, some p, some r => some
      { bay := b, pmin := p.pmin, cap := sessionCap p.pmin p.pmax r.cap (s.bay b).demand,
        weight := plan.site.weight r.priority, high := r.priority == .high,
        number := r.session.getD 0, ordinal := (s.grant b).startOrdinal }
  | _, _, _ => none

/-- The order of two sessions of one priority: by session number, equal numbers by start (R127). -/
def Session.before (x y : Session) : Bool :=
  decide (x.number < y.number) || (x.number == y.number && decide (x.ordinal ≤ y.ordinal))

/-- A session put at its place in an ordered list. -/
def placeSession (x : Session) : List Session → List Session
  | [] => [x]
  | y :: ys => if x.before y then x :: y :: ys else y :: placeSession x ys

/-- Sessions ordered by number. -/
def sortSessions : List Session → List Session
  | [] => []
  | x :: xs => placeSession x (sortSessions xs)

/-- The running sessions of feeder `f` in grant order: HIGH, then NORMAL, each by session number (R127). -/
def State.sessionsOn (s : State) (f : FeederNo) : List Session :=
  let all := (allBays.filter (s.onFeeder f)).filterMap s.sessionOf
  sortSessions (all.filter (·.high)) ++ sortSessions (all.filter fun x => !x.high)

/-- The want W_f of a feeder (R124). -/
def State.wantOf (s : State) (f : FeederNo) : Nat :=
  match s.plan, s.feederPlan f with
  | some plan, some p =>
    let w := min p.limit ((s.feeder f).stranded + ((s.sessionsOn f).map (·.cap)).sum)
    match plan.site.mode with
    | .quota => min w (s.siteBudget * p.quota / 256)
    | .pooled => w
  | _, _ => 0

/-- One round of the leftover's hand-out: one unit to each feeder whose budget is below its want, in ascending number, while
units last (R125). Each pair is a want with the budget so far. -/
def handOutRound : Nat → List (Nat × Nat) → List (Nat × Nat) × Nat
  | left, [] => ([], left)
  | left, (w, b) :: rest =>
    if 0 < left ∧ b < w then
      let (paid, kept) := handOutRound (left - 1) rest
      ((w, b + 1) :: paid, kept)
    else
      let (paid, kept) := handOutRound left rest
      ((w, b) :: paid, kept)

/-- The rounds of the hand-out, until no unit is left or no feeder is below its want (R125). -/
def handOut : Nat → Nat → List (Nat × Nat) → List (Nat × Nat)
  | 0, _, xs => xs
  | fuel + 1, left, xs =>
    if 0 < left ∧ (xs.any fun (w, b) => decide (b < w)) then
      let (ys, kept) := handOutRound left xs
      handOut fuel kept ys
    else xs

/-- The budgets B_f of the feeders from their wants, in feeder order (R125). -/
def shareBudget (mode : SharingMode) (e : Nat) (wants : List Nat) : List Nat :=
  match mode with
  | .quota => wants
  | .pooled =>
    let total := wants.sum
    if total ≤ e then wants
    else
      let first := wants.map fun w => (w, w * e / total)
      let leftover := e - (first.map (·.2)).sum
      (handOut leftover leftover first).map (·.2)

/-- The budget trimmed by a step: 8, 7, 6 or 5 eighths (R126). -/
def trimBudget (b step : Nat) : Nat := b * (256 - 32 * step) / 256

/-- The trim step t_f, 0 for an undefined feeder (R142). -/
def Feeder.trimStep (f : Feeder) : Nat := (f.monitor.map (·.step)).getD 0

/-- The four values the run writes for every feeder: W_f, B_f, B'_f and A_f; 0 for an undefined one (R122, R124 to R126). -/
def State.writeBudgets (s : State) : State :=
  let e := s.siteBudget
  let wants := allFeeders.map s.wantOf
  let budgets :=
    match s.plan with
    | some plan => shareBudget plan.site.mode e wants
    | none => wants
  let t := { s with effective := e }
  allFeeders.foldl (fun u f =>
    let w := wants.getD f.val 0
    let b := budgets.getD f.val 0
    u.modFeeder f fun x =>
      let trimmed := if (s.feederPlan f).isSome then trimBudget b x.trimStep else 0
      { x with want := w, budget := b, trimmedBudget := trimmed, sessionBudget := trimmed - x.stranded }) t

/-! ### Level B: a feeder to its sessions -/

/-- The minimums handed out along the grant order: a session whose pmin is above what is left is granted 0 and passed over
(R127). -/
def grantMinimums : Nat → List Session → List Session × Nat
  | left, [] => ([], left)
  | left, x :: xs =>
    if x.pmin ≤ left then
      let (ys, kept) := grantMinimums (left - x.pmin) xs
      ({ x with grant := x.pmin, served := true } :: ys, kept)
    else
      let (ys, kept) := grantMinimums left xs
      ({ x with grant := 0, served := false } :: ys, kept)

/-- The headroom of a session: its cap less its grant (R128). -/
def Session.headroom (x : Session) : Nat := x.cap - x.grant

/-- An open session: granted its minimum, with headroom left (R128). -/
def Session.isOpen (x : Session) : Bool := x.served && decide (0 < x.headroom)

/-- A session's share in a weighted pass (R128). -/
def Session.share (x : Session) (left weights : Nat) : Nat := if x.isOpen then left * x.weight / weights else 0

/-- The sum of the weights of the open sessions (R128). -/
def openWeight (xs : List Session) : Nat := ((xs.filter (·.isOpen)).map (·.weight)).sum

/-- One round of single units along the grant order (R128). -/
def unitRound : Nat → List Session → List Session × Nat
  | left, [] => ([], left)
  | left, x :: xs =>
    if 0 < left ∧ x.isOpen then
      let (ys, kept) := unitRound (left - 1) xs
      ({ x with grant := x.grant + 1 } :: ys, kept)
    else
      let (ys, kept) := unitRound left xs
      (x :: ys, kept)

/-- The unit rounds: until nothing is left or no session is open (R128). Each round gives at least one unit, so `fuel` = the
units left at the start never runs out. -/
def unitRounds : Nat → Nat → List Session → List Session
  | 0, _, xs => xs
  | fuel + 1, left, xs =>
    if 0 < left ∧ xs.any (·.isOpen) then
      let (ys, kept) := unitRound left xs
      unitRounds fuel kept ys
    else xs

/-- The extras: weighted passes while some share is above 0, then the unit rounds (R128). Each pass gives at least one unit, so
`fuel` above the units left at the start never runs out. -/
def extras : Nat → Nat → List Session → List Session
  | 0, _, xs => xs
  | fuel + 1, left, xs =>
    let weights := openWeight xs
    if xs.all fun x => x.share left weights == 0 then unitRounds left left xs
    else
      let given := xs.map fun x => min (x.share left weights) x.headroom
      let ys := xs.map fun x => { x with grant := x.grant + min (x.share left weights) x.headroom }
      extras fuel (left - given.sum) ys

/-- The grants of a feeder's sessions from its session budget A_f (R127, R128). -/
def shareSessions (budget : Nat) (xs : List Session) : List Session :=
  let (ys, left) := grantMinimums budget xs
  extras (left + 1) left ys

/-- One session's target written at its bay, its starved flag following; going from clear to set counts (R129). -/
def State.writeTarget (s : State) (x : Session) : State :=
  let t := s.modGrant x.bay fun g => { g with target := x.grant }
  if x.grant = 0 then
    let u := t.modBay x.bay fun y => { y with starved := true }
    if (s.bay x.bay).starved then u else u.bump .sessionsStarved
  else t.modBay x.bay fun y => { y with starved := false }

/-- A bay with no running session has target 0 and its starved flag clear (R129). -/
def State.clearTarget (s : State) (b : BayNo) : State :=
  (s.modGrant b fun g => { g with target := 0 }).modBay b fun y => { y with starved := false }

/-- The targets of every session written (R127 to R129). -/
def State.writeTargets (s : State) : State :=
  let t := allBays.foldl (fun u b => if u.charging b then u else u.clearTarget b) s
  allFeeders.foldl (fun u f =>
    (shareSessions (s.feeder f).sessionBudget (s.sessionsOn f)).foldl State.writeTarget u) t

/-! ### Settlement of the targets (R131, R134) -/

/-- Every held-back increase of the older run discarded (R131, R134). -/
def State.discardIncreases (s : State) : State :=
  allBays.foldl (fun t b => if (t.grant b).heldBack.isSome then t.modGrant b fun g => { g with heldBack := none } else t) s

/-- A running session's bay settled against its new target, by the first row of the table of R131 that applies. -/
def State.settleTarget (s : State) (b : BayNo) : State :=
  let g := s.grant b
  let flag := if g.startQueued then OrderFlag.plain else OrderFlag.start
  match g.outstanding with
  | some o =>
    if g.target = o.value ∧ g.startQueued then s.modGrant b fun x => { x with pending := none }
    else s.modGrant b fun x => { x with pending := some ⟨g.target, flag⟩ }
  | none =>
    if g.target < g.acknowledged then s.handGrant b g.target flag
    else if g.target = g.acknowledged then (if g.startQueued then s else s.handGrant b g.target flag)
    else s.modGrant b fun x => { x with heldBack := some ⟨g.target, flag⟩ }

/-- After a run: older increases discarded, each running session's bay settled in ascending number, then each feeder's gate
tested in ascending number (R131, R132). -/
def State.settleTargets (s : State) : State :=
  let t := s.discardIncreases
  let u := allBays.foldl (fun u b => if u.charging b then u.settleTarget b else u) t
  allFeeders.foldl State.testGate u

/-- An allocation run (R122): budgets, targets, and the grant orders they make. -/
def State.allocationRun (s : State) : State := s.writeBudgets.writeTargets.settleTargets

/-- The state of a part of an event, and whether the part calls for an allocation run (R122). -/
abbrev Ev := State × Bool

/-- The run taken where it was called for. -/
def takeRun (e : Ev) : State := if e.2 then e.1.allocationRun else e.1

end Sys2Proof.Machine
end

