-- ==== Sys2Proof/Machine/Operands.lean ====
section
/-! DEFINITION. Bytes and fields: byte order (12), booking port frames and their request bodies both ways (R177, R194), the
numbered field ranges of check 8 (R179, R194), tickets (R49), the codes of 12.1 and R185, and the frames of the bay link with
their CRC (R157, 12.5) and the decoding of a REPORT (R195). -/

namespace Sys2Proof.Machine

/-! ### Byte order and fields -/

/-- The `n` bytes of a value, least significant first (12). -/
def le : Nat → Nat → List Byte
  | 0, _ => []
  | n + 1, v => BitVec.ofNat 8 v :: le n (v / 256)

/-- The value of bytes sent least significant first (12). -/
def unle : List Byte → Nat
  | [] => 0
  | b :: bs => b.toNat + 256 * unle bs

/-- The value of the field of `n` bytes at offset `at_` of a body. -/
def fieldAt (body : List Byte) (at_ n : Nat) : Nat := unle ((body.drop at_).take n)

/-- A flag or presence flag as a byte (12.1). -/
def flagByte (x : Bool) : Byte := if x then 1 else 0

/-! ### Booking port frames (R177) -/

/-- The sum of bytes modulo 256. -/
def byteSum (bs : List Byte) : Byte := bs.foldl (· + ·) 0

/-- A frame of the booking port: two opening bytes, the body length, the body, and the byte that makes the sum 0 (R177). -/
def portFrame (first second : Byte) (body : List Byte) : List Byte :=
  let head := first :: second :: (le 2 body.length ++ body)
  head ++ [-(byteSum head)]

/-- The code of a reply's first byte: the request's code plus 0x80, modulo 256 (R177). -/
def replyCode (code : Byte) : Byte := code + 0x80

/-! ### Codes (12.1, R185) -/

/-- R185. -/
def Status.code : Status → Byte
  | .ok => 0x00 | .badChecksum => 0x01 | .badLength => 0x02 | .unknownRequest => 0x03 | .badParameter => 0x04
  | .segmentOrder => 0x05 | .planTooLarge => 0x06 | .staleTicket => 0x10 | .noSuch => 0x11 | .tableFull => 0x12
  | .credentialInUse => 0x13 | .wrongState => 0x14 | .bayTaken => 0x15 | .retired => 0x16 | .noBay => 0x17
  | .planConflict => 0x20 | .pledgeConflict => 0x21 | .planInvalid => 0x22 | .clockBackward => 0x30 | .noPlan => 0x31

/-- The port status byte (R173). -/
def PortState.code : PortState → Byte
  | .ready => 0x01 | .busy => 0x02 | .reply => 0x03

def VehicleClass.code : VehicleClass → Nat
  | .pub => 0 | .accessible => 1 | .fleet => 2

def VehicleClass.ofCode : Nat → VehicleClass
  | 0 => .pub | 1 => .accessible | _ => .fleet

def Priority.code : Priority → Nat
  | .high => 0 | .normal => 1

def Kind.code : Kind → Nat
  | .standard => 0 | .accessible => 1 | .large => 2

def ResState.code : ResState → Nat
  | .waiting => 1 | .held => 2 | .engaged => 3 | .charging => 4 | .overstay => 5

def BayState.code : BayState → Nat
  | .unplanned => 0 | .free => 1 | .held => 2 | .identifying => 3 | .blocked => 4 | .engaged => 5 | .charging => 6
  | .overstay => 7 | .outOfService => 8

def Reason.code : Reason → Nat
  | .unheard => 1 | .linkLost => 2 | .postFault => 3 | .detectorFault => 4 | .operator => 5

def Ending.code : Ending → Nat
  | .completed => 1 | .overstayed => 2 | .leftUncharged => 3 | .noShow => 4 | .waitExpired => 5 | .cancelled => 6
  | .released => 7 | .leftUnseen => 8 | .reset => 9

def Aspect.code : Aspect → Nat
  | .dark => 0 | .available => 1 | .reserved => 2 | .inUse => 3 | .outOfService => 4

def Occupancy.code : Occupancy → Nat
  | .empty => 0 | .occupied => 1

def PlugState.code : PlugState → Nat
  | .unplugged => 0 | .plugged => 1 | .charging => 2 | .postFault => 3

def LinkState.code : LinkState → Nat
  | .unheard => 0 | .active => 1 | .silent => 2 | .lost => 3

def DeadlineKind.code : DeadlineKind → Nat
  | .holdEnd => 1 | .waitEnd => 2 | .stayEnd => 3 | .identifyEnd => 4 | .graceEnd => 5 | .curtailEnd => 6

/-! ### Tickets (R49) -/

/-- The slot a ticket names. -/
def ticketSlot (t : BitVec 16) : SlotNo := ⟨t.toNat % 1024, by omega⟩

/-- The generation a ticket carries. -/
def ticketGeneration (t : BitVec 16) : Fin 64 := ⟨t.toNat / 1024, by omega⟩

/-- The ticket of a slot at a generation: slot + 1024 × generation. -/
def ticketOf (i : SlotNo) (g : Fin 64) : Nat := i.val + 1024 * g.val

/-- The generation one behind, modulo 64 (R49). -/
def priorGeneration (g : Fin 64) : Fin 64 := ⟨(g.val + 63) % 64, by omega⟩

/-- The generation one ahead, modulo 64 (R54). -/
def nextGeneration (g : Fin 64) : Fin 64 := ⟨(g.val + 1) % 64, by omega⟩

/-! ### Requests (R184, R194, 12.2) -/

/-- The code of a request (R184); transactions, events and expiries are no requests. -/
def requestCode : Instr → Option Nat
  | .book _ => some 0x10
  | .amend _ => some 0x11
  | .cancel _ => some 0x12
  | .release _ => some 0x13
  | .queryReservation _ => some 0x14
  | .findCredential _ => some 0x15
  | .listChanges => some 0x16
  | .queryBay _ => some 0x20
  | .setBayServiceOut _ => some 0x21
  | .setBayServiceIn _ => some 0x21
  | .clearStranded _ => some 0x22
  | .loadPlanFirst _ => some 0x30
  | .loadPlanMiddle _ => some 0x30
  | .loadPlanLast _ => some 0x30
  | .loadPlanOnly _ => some 0x30
  | .queryFeeder _ => some 0x40
  | .curtail _ _ => some 0x41
  | .curtailAmountZero _ => some 0x41
  | .setClock _ => some 0x50
  | .readClock => some 0x51
  | .readNotices => some 0x60
  | .setNoticeMask _ => some 0x61
  | .setChangeThreshold _ => some 0x62
  | .snapshotCounters _ => some 0x63
  | .readCounters => some 0x64
  | .reset => some 0x7F
  | _ => none

/-- The part byte of a request: ONLY for all but the segments of LOAD PLAN (R177). -/
def requestPart : Instr → Nat
  | .loadPlanFirst _ => 1
  | .loadPlanMiddle _ => 2
  | .loadPlanLast _ => 3
  | _ => 0

/-- The body of a request as its form lays it out (12.2). -/
def requestBody : Instr → List Byte
  | .book q =>
      le 5 q.credential.toNat ++ le 1 q.cls.toNat ++ le 1 q.large.toNat ++ le 1 q.zoneMask.toNat ++ le 2 q.hold.toNat ++
      le 2 q.wait.toNat ++ le 4 q.stay.toNat ++ le 1 q.capPresent.toNat ++ le 2 q.cap.toNat ++ le 1 q.pinPresent.toNat ++
      le 2 q.pin.toNat
  | .amend q =>
      le 2 q.ticket.toNat ++ le 1 q.holdPresent.toNat ++ le 2 q.hold.toNat ++ le 1 q.stayPresent.toNat ++
      le 4 q.stay.toNat ++ le 1 q.capAction.toNat ++ le 2 q.cap.toNat ++ le 1 q.maskPresent.toNat ++ le 1 q.mask.toNat
  | .cancel t => le 2 t.toNat
  | .release t => le 2 t.toNat
  | .queryReservation t => le 2 t.toNat
  | .findCredential c => le 5 c.toNat
  | .queryBay b => le 2 b.toNat
  | .setBayServiceOut b => le 2 b.toNat ++ le 1 0
  | .setBayServiceIn b => le 2 b.toNat ++ le 1 1
  | .clearStranded b => le 2 b.toNat
  | .loadPlanFirst body => body
  | .loadPlanMiddle body => body
  | .loadPlanLast body => body
  | .loadPlanOnly body => body
  | .queryFeeder f => le 1 f.toNat
  | .curtail a d => le 2 a.toNat ++ le 4 d.toNat
  | .curtailAmountZero d => le 2 0 ++ le 4 d.toNat
  | .setClock v => le 4 v.toNat
  | .setNoticeMask m => le 1 m.toNat
  | .setChangeThreshold t => le 1 t.toNat
  | .snapshotCounters c => le 1 c.toNat
  | _ => []

/-- The frame that carries a request (R177): what the site computer writes. -/
def requestFrame (c : Instr) : Option (List Byte) :=
  (requestCode c).map fun k => portFrame (BitVec.ofNat 8 k) (BitVec.ofNat 8 (requestPart c)) (requestBody c)

/-- The body length a code's form has: `none` outside the catalogue, `some none` for LOAD PLAN, whose body is 0..1016 bytes
(R178, R184). -/
def formLength : Nat → Option (Option Nat)
  | 0x10 => some (some 22)
  | 0x11 => some (some 15)
  | 0x12 => some (some 2)
  | 0x13 => some (some 2)
  | 0x14 => some (some 2)
  | 0x15 => some (some 5)
  | 0x16 => some (some 0)
  | 0x20 => some (some 2)
  | 0x21 => some (some 3)
  | 0x22 => some (some 2)
  | 0x30 => some none
  | 0x40 => some (some 1)
  | 0x41 => some (some 6)
  | 0x50 => some (some 4)
  | 0x51 => some (some 0)
  | 0x60 => some (some 0)
  | 0x61 => some (some 1)
  | 0x62 => some (some 1)
  | 0x63 => some (some 1)
  | 0x64 => some (some 0)
  | 0x7F => some (some 0)
  | _ => none

/-- The fields of a BOOK body (12.2). -/
def readBook (body : List Byte) : BookReq where
  credential := BitVec.ofNat 40 (fieldAt body 0 5)
  cls        := BitVec.ofNat 8 (fieldAt body 5 1)
  large      := BitVec.ofNat 8 (fieldAt body 6 1)
  zoneMask   := BitVec.ofNat 8 (fieldAt body 7 1)
  hold       := BitVec.ofNat 16 (fieldAt body 8 2)
  wait       := BitVec.ofNat 16 (fieldAt body 10 2)
  stay       := BitVec.ofNat 32 (fieldAt body 12 4)
  capPresent := BitVec.ofNat 8 (fieldAt body 16 1)
  cap        := BitVec.ofNat 16 (fieldAt body 17 2)
  pinPresent := BitVec.ofNat 8 (fieldAt body 19 1)
  pin        := BitVec.ofNat 16 (fieldAt body 20 2)

/-- The fields of an AMEND body (12.2). -/
def readAmend (body : List Byte) : AmendReq where
  ticket      := BitVec.ofNat 16 (fieldAt body 0 2)
  holdPresent := BitVec.ofNat 8 (fieldAt body 2 1)
  hold        := BitVec.ofNat 16 (fieldAt body 3 2)
  stayPresent := BitVec.ofNat 8 (fieldAt body 5 1)
  stay        := BitVec.ofNat 32 (fieldAt body 6 4)
  capAction   := BitVec.ofNat 8 (fieldAt body 10 1)
  cap         := BitVec.ofNat 16 (fieldAt body 11 2)
  maskPresent := BitVec.ofNat 8 (fieldAt body 13 1)
  mask        := BitVec.ofNat 8 (fieldAt body 14 1)

/-- The request a body of a code's form carries (R184, R194). A direction byte other than 0 reads as IN here; check 8 has
refused it if it is not 1. -/
def readRequest (code part : Nat) (body : List Byte) : Option Instr :=
  match code with
  | 0x10 => some (.book (readBook body))
  | 0x11 => some (.amend (readAmend body))
  | 0x12 => some (.cancel (BitVec.ofNat 16 (fieldAt body 0 2)))
  | 0x13 => some (.release (BitVec.ofNat 16 (fieldAt body 0 2)))
  | 0x14 => some (.queryReservation (BitVec.ofNat 16 (fieldAt body 0 2)))
  | 0x15 => some (.findCredential (BitVec.ofNat 40 (fieldAt body 0 5)))
  | 0x16 => some .listChanges
  | 0x20 => some (.queryBay (BitVec.ofNat 16 (fieldAt body 0 2)))
  | 0x21 =>
      let bay := BitVec.ofNat 16 (fieldAt body 0 2)
      some (if fieldAt body 2 1 = 0 then .setBayServiceOut bay else .setBayServiceIn bay)
  | 0x22 => some (.clearStranded (BitVec.ofNat 16 (fieldAt body 0 2)))
  | 0x30 =>
      match part with
      | 0 => some (.loadPlanOnly body)
      | 1 => some (.loadPlanFirst body)
      | 2 => some (.loadPlanMiddle body)
      | _ => some (.loadPlanLast body)
  | 0x40 => some (.queryFeeder (BitVec.ofNat 8 (fieldAt body 0 1)))
  | 0x41 =>
      let amount := BitVec.ofNat 16 (fieldAt body 0 2)
      let duration := BitVec.ofNat 32 (fieldAt body 2 4)
      some (if amount = 0 then .curtailAmountZero duration else .curtail amount duration)
  | 0x50 => some (.setClock (BitVec.ofNat 32 (fieldAt body 0 4)))
  | 0x51 => some .readClock
  | 0x60 => some .readNotices
  | 0x61 => some (.setNoticeMask (BitVec.ofNat 8 (fieldAt body 0 1)))
  | 0x62 => some (.setChangeThreshold (BitVec.ofNat 8 (fieldAt body 0 1)))
  | 0x63 => some (.snapshotCounters (BitVec.ofNat 8 (fieldAt body 0 1)))
  | 0x64 => some .readCounters
  | 0x7F => some .reset
  | _ => none

/-! ### Check 8: the ranges of a request's own fields (R179, R194) -/

/-- A value in a closed range. -/
def inRange (lo hi x : Nat) : Bool := decide (lo ≤ x) && decide (x ≤ hi)

/-- The number, from 1, of the first field that is not in range; 0 when every field is. -/
def firstBad (n : Nat) : List Bool → Nat
  | [] => 0
  | okay :: rest => if okay then firstBad (n + 1) rest else n

/-- The number of a request's first bad field, 0 for none (R179). Value bytes behind a clear presence flag are not read
(R194). -/
def badField : Instr → Nat
  | .book q => firstBad 1 [
      q.credential != 0, inRange 0 2 q.cls.toNat, inRange 0 1 q.large.toNat, q.zoneMask != 0,
      inRange 60 7200 q.hold.toNat, inRange 0 14400 q.wait.toNat, inRange 600 86400 q.stay.toNat,
      inRange 0 1 q.capPresent.toNat, q.capPresent == 0 || inRange 10 1500 q.cap.toNat,
      inRange 0 1 q.pinPresent.toNat, q.pinPresent == 0 || inRange 0 511 q.pin.toNat]
  | .amend q => firstBad 1 [
      true, inRange 0 1 q.holdPresent.toNat, q.holdPresent == 0 || inRange 60 7200 q.hold.toNat,
      inRange 0 1 q.stayPresent.toNat, q.stayPresent == 0 || inRange 600 86400 q.stay.toNat,
      inRange 0 2 q.capAction.toNat, q.capAction != 1 || inRange 10 1500 q.cap.toNat,
      inRange 0 1 q.maskPresent.toNat, q.maskPresent == 0 || q.mask != 0]
  | .findCredential c => firstBad 1 [c != 0]
  | .queryBay b => firstBad 1 [inRange 0 511 b.toNat]
  | .setBayServiceOut b => firstBad 1 [inRange 0 511 b.toNat]
  | .setBayServiceIn b => firstBad 1 [inRange 0 511 b.toNat]
  | .clearStranded b => firstBad 1 [inRange 0 511 b.toNat]
  | .queryFeeder f => firstBad 1 [inRange 0 15 f.toNat]
  | .curtail a d => firstBad 1 [true, a == 0 || inRange 1 86400 d.toNat]
  | .setNoticeMask m => firstBad 1 [inRange 0 63 m.toNat]
  | .setChangeThreshold t => firstBad 1 [inRange 1 64 t.toNat]
  | .snapshotCounters c => firstBad 1 [inRange 0 1 c.toNat]
  | _ => 0

/-- Check 8 on a frame's body: as `badField`, with SET BAY SERVICE's direction read from its byte (R194). -/
def badBodyField (code : Nat) (body : List Byte) (c : Instr) : Nat :=
  if badField c = 0 ∧ code = 0x21 ∧ 1 < fieldAt body 2 1 then 2 else badField c

/-- The requests check 9 refuses while no plan is active (R179, R184). -/
def needsPlan : Instr → Bool
  | .book _ | .queryBay _ | .setBayServiceOut _ | .setBayServiceIn _ | .clearStranded _ | .queryFeeder _ => true
  | _ => false

/-- The reservation requests, whose replies carry the number of FREE slots (R177, 12.2): codes 0x10..0x16. -/
def isReservationCode (code : Nat) : Bool := inRange 0x10 0x16 code

/-- The bay a 16-bit field names, if it is in range. -/
def bayNo? (b : BitVec 16) : Option BayNo := if h : b.toNat < 512 then some ⟨b.toNat, h⟩ else none

/-- The feeder a byte names, if it is in range. -/
def feederNo? (f : Byte) : Option FeederNo := if h : f.toNat < 16 then some ⟨f.toNat, h⟩ else none

/-! ### The bay link's CRC (R157) -/

/-- One bit of the CRC register: the generator x^16 + x^12 + x^5 + 1. -/
def crcBit (r : BitVec 16) : BitVec 16 := if r.msb then (r <<< 1) ^^^ 0x1021 else r <<< 1

/-- One byte taken into the CRC register, most significant bit first. -/
def crcByte (r : BitVec 16) (b : Byte) : BitVec 16 :=
  crcBit (crcBit (crcBit (crcBit (crcBit (crcBit (crcBit (crcBit (r ^^^ (b.setWidth 16 <<< 8)))))))))

/-- The CRC-16 of bytes: the register starts at 0xFFFF, with no final inversion (R157). -/
def crc16 (bs : List Byte) : BitVec 16 := bs.foldl crcByte 0xFFFF

/-- A frame of the bay link: address, kind, payload, and the CRC high byte first (12.5). -/
def linkFrame (addr : LaneAddr) (kind : Byte) (payload : List Byte) : List Byte :=
  let head := BitVec.ofNat 8 addr.val :: kind :: payload
  let crc := (crc16 head).toNat
  head ++ [BitVec.ofNat 8 (crc / 256), BitVec.ofNat 8 crc]

/-- The flags byte of an ORDER (12.5): bit 0 START, bit 1 STOP, bit 2 refuse flash. -/
def orderFlags (flag : OrderFlag) (flash : Bool) : Nat :=
  (match flag with | .plain => 0 | .start => 1 | .stop => 2) + if flash then 4 else 0

/-- The request frame of an exchange (R155, 12.5). -/
def exchangeFrame (b : BayNo) : Option OrderContent → List Byte
  | none => linkFrame (addrOf b) 0x01 []
  | some o => linkFrame (addrOf b) 0x02
      (le 2 o.grant ++ le 1 (orderFlags o.flag o.flash) ++ le 1 o.aspect.code)

/-! ### Reports (R24, R195) -/

/-- A good REPORT as the Bay Table takes it (R24). -/
structure Report where
  fault     : Nat
  occupancy : OccupancyCode
  cred      : Option Credential
  plug      : PlugState
  stop      : Bool
  demand    : Nat
  metered   : Nat
  inForce   : Nat
  aspect    : Nat
  deriving DecidableEq, Repr

/-- R195: an occupancy byte above 2 is DETECTOR_FAULT. -/
def occupancyOf : Nat → OccupancyCode
  | 0 => .empty | 1 => .occupied | _ => .detectorFault

/-- R195: a plug byte above 3 is POST_FAULT. -/
def plugOf : Nat → PlugState
  | 0 => .unplugged | 1 => .plugged | 2 => .charging | _ => .postFault

/-- The code of an occupancy code in a report (12.1). -/
def OccupancyCode.code : OccupancyCode → Nat
  | .empty => 0 | .occupied => 1 | .detectorFault => 2

/-- A REPORT's payload, decoded (R195). -/
def readReport (payload : List Byte) : Report where
  fault     := fieldAt payload 0 1
  occupancy := occupancyOf (fieldAt payload 1 1)
  cred      :=
    let c := BitVec.ofNat 40 (fieldAt payload 3 5)
    if fieldAt payload 2 1 = 0 ∨ c = 0 then none else some c
  plug      := plugOf (fieldAt payload 8 1)
  stop      := fieldAt payload 9 1 != 0
  demand    := fieldAt payload 10 2
  metered   := fieldAt payload 12 2
  inForce   := fieldAt payload 14 2
  aspect    := fieldAt payload 16 1

/-- The payload a unit sends for a report (12.5). -/
def reportPayload (r : Report) : List Byte :=
  le 1 r.fault ++ le 1 r.occupancy.code ++ [flagByte r.cred.isSome] ++ le 5 ((r.cred.map (·.toNat)).getD 0) ++
  le 1 r.plug.code ++ [flagByte r.stop] ++ le 2 r.demand ++ le 2 r.metered ++ le 2 r.inForce ++ le 1 r.aspect

/-- The REPORT frame of a bay's unit (12.5). -/
def reportFrame (b : BayNo) (r : Report) : List Byte := linkFrame (addrOf b) 0x81 (reportPayload r)

/-- The ACK frame of a bay's unit for an order (12.5). -/
def ackFrame (b : BayNo) (o : OrderContent) : List Byte :=
  linkFrame (addrOf b) 0x82 (le 2 o.grant ++ le 1 o.aspect.code)

/-- Whether a report is a post fault (R26). -/
def Report.postFault (r : Report) : Bool := r.fault != 0 || r.plug == .postFault

/-- Whether a report carries a detector fault and no post fault (R27). -/
def Report.detectorFault (r : Report) : Bool := !r.postFault && r.occupancy == .detectorFault

end Sys2Proof.Machine
end

