-- ==== Sys2Proof/Machine/Selection.lean ====
section
/-! DEFINITION. The Arrival Matcher's searches and tests, none of which changes anything: the longest-prefix search (R75),
exclusivity (R76), the three stages of selection (R77 to R81), the bay test and the placement test (R82). -/

namespace Sys2Proof.Machine

/-! ### The static allotment list (R74 to R76) -/

/-- Whether an entry's prefix matches a credential: their n leading bits agree, n the entry's length (R75). -/
def Allotment.matchesCredential (a : Allotment) (c : Credential) : Bool :=
  (c >>> (40 - a.length)) == (a.leading >>> (40 - a.length))

/-- The longest-prefix search: the number and entry of the longest match (R75). -/
def longestPrefix (entries : List Allotment) (c : Credential) : Option (Nat × Allotment) :=
  entries.zipIdx.foldl (fun best (a, n) =>
    if a.matchesCredential c then
      match best with
      | some (_, b) => if b.length < a.length then some (n, a) else best
      | none => some (n, a)
    else best) none

/-- Whether a bay lies in an entry's range (R76). -/
def Allotment.covers (a : Allotment) (b : BayNo) : Bool := decide (a.firstBay ≤ b.val) && decide (b.val < a.firstBay + a.count)

/-- The numbers of the exclusive entries whose range holds a bay (R76). -/
def State.exclusiveAt (s : State) (b : BayNo) : List Nat :=
  s.allotments.zipIdx.filterMap fun (a, n) => if a.exclusive && a.covers b then some n else none

/-- Whether a bay admits a record with a given allotment entry (R76). -/
def State.admits (s : State) (b : BayNo) (entry : Option Nat) : Bool :=
  (s.exclusiveAt b).isEmpty || (match entry with | some n => (s.exclusiveAt b).contains n | none => false)

/-! ### The record selection is run for (R77) -/

/-- What selection reads of a record, live or would-be (R77). `leaving` is the bay a record still bound counts as unbound
from. -/
structure Claim where
  cls       : VehicleClass
  large     : Bool
  zoneMask  : ZoneMask
  allotment : Option Nat
  leaving   : Option BayNo

/-- The claim of an unbound live record. -/
def Reservation.claim (r : Reservation) : Claim := ⟨r.cls, r.large, r.zoneMask, r.allotment, none⟩

/-- The pledge P of a feeder as the test reads it: less pmin of the bay the record leaves, where that bay stands on the feeder
(R80). -/
def State.pledgeFor (s : State) (c : Claim) (f : FeederNo) : Nat :=
  match c.leaving with
  | some y => if s.onFeeder f y then (s.feeder f).pledge - s.pminOf y else (s.feeder f).pledge
  | none => (s.feeder f).pledge

/-! ### The five masks (R79, R80) -/

/-- The kind mask (R79). -/
def kindFits (c : Claim) : Kind → Bool
  | .accessible => c.cls == .accessible && !c.large
  | .standard => !c.large
  | .large => true

/-- The zone mask: the bay's zone is not closed (R79). -/
def State.zoneOpen (s : State) (p : BayPlan) : Bool :=
  match s.zone p.zone with
  | some z => !z.closed
  | none => false

/-- The pledge test (R80). -/
def State.pledgeTest (s : State) (c : Claim) (p : BayPlan) : Bool :=
  decide (s.pledgeFor c p.feeder + p.pmin ≤ s.feederLimit p.feeder)

/-- The masks of stage 2 other than the state mask (R79). -/
def State.masks (s : State) (c : Claim) (b : BayNo) : Bool :=
  match (s.bay b).place with
  | some p => s.zoneOpen p && kindFits c p.kind && s.admits b c.allotment && s.pledgeTest c p
  | none => false

/-! ### Stages 1 and 3 (R78, R81) -/

/-- Stage 1: whether a bay is in the candidate set (R78). -/
def State.candidate (s : State) (c : Claim) (b : BayNo) : Bool :=
  match (s.bay b).place with
  | none => false
  | some p =>
    match c.allotment with
    | some n =>
      match s.allotments[n]? with
      | some a => a.covers b
      | none => false
    | none => c.zoneMask.getLsbD p.zone.val

/-- The kind rank: the lower the better. For a record of class ACCESSIBLE the order is ACCESSIBLE, STANDARD, LARGE; for another
class it is STANDARD, LARGE, no ACCESSIBLE bay being left by stage 2 (R79, R81). -/
def kindRank : Kind → Nat
  | .accessible => 0
  | .standard => 1
  | .large => 2

/-- The spare of a bay's feeder, F_f − P (R81). -/
def State.spare (s : State) (c : Claim) (p : BayPlan) : Nat := s.feederLimit p.feeder - s.pledgeFor c p.feeder

/-- Whether a bay ranks ahead of one of a lower number: by kind rank, then by feeder spare; equal keys leave the lower number
first (R81). -/
def State.ranksAhead (s : State) (c : Claim) (x y : BayNo) : Bool :=
  match (s.bay x).place, (s.bay y).place with
  | some p, some q =>
    decide (kindRank p.kind < kindRank q.kind) ||
      (kindRank p.kind == kindRank q.kind && decide (s.spare c q < s.spare c p))
  | _, _ => false

/-! ### Selection and the single-bay tests -/

/-- The placement test: stage 1 membership and the masks of stage 2, the bay FREE (R82). -/
def State.placementTest (s : State) (c : Claim) (b : BayNo) : Bool :=
  s.candidate c b && ((s.bay b).state == .free) && s.masks c b

/-- Selection: the first bay of the ranking of the bays stages 1 and 2 keep (R77, R81). -/
def State.select (s : State) (c : Claim) : Option BayNo :=
  (allBays.filter (s.placementTest c)).foldl (fun best b =>
    match best with
    | some x => if s.ranksAhead c b x then some b else some x
    | none => some b) none

/-- The bay test with the bay required FREE: BOOK with a pinned bay (R59, R82). -/
def State.pinTest (s : State) (c : Claim) (b : BayNo) : Bool := ((s.bay b).state == .free) && s.masks c b

/-- The state mask of a presentation: IDENTIFYING without kept hold, or BLOCKED (R82). -/
def Bay.presentable (x : Bay) : Bool := (x.state == .identifying && !x.keptHold) || x.state == .blocked

/-- The bay test of a presentation (R82). -/
def State.presentationTest (s : State) (c : Claim) (b : BayNo) : Bool := (s.bay b).presentable && s.masks c b

/-- The one live record that carries a credential, if any (R52, R83). -/
def State.findLive (s : State) (c : Credential) : Option SlotNo :=
  allSlots.find? fun i =>
    match s.record i with
    | some r => r.credential == c
    | none => false

end Sys2Proof.Machine
end

