-- ==== Sys2Proof/Machine/Reservations.lean ====
section
/-! DEFINITION. The life of a record: binding (R53), retirement (R54, R55), creation (R48, R51, R52), the waiting lists and the
service of a freed bay (R98 to R106), re-homing (R94, R95) and engagement (R86). -/

namespace Sys2Proof.Machine

/-! ### Binding (R53) -/

/-- Record and bay bound: each names the other, the feeder's pledge raised by the bay's pmin. -/
def State.bind (s : State) (i : SlotNo) (b : BayNo) : State :=
  ((s.modRecord i fun r => { r with bay := some b }).modBay b fun x => { x with bound := some i }).modFeederOf b
    fun f => { f with pledge := f.pledge + s.pminOf b }

/-- A record unbound from the bay it names, if any: both sides absent, the pledge lowered, kept hold on the bay cleared (R53,
R54 step 1, R94 step 1). -/
def State.unbind (s : State) (i : SlotNo) : State :=
  match (s.record i).bind (·.bay) with
  | none => s
  | some b =>
    ((s.modRecord i fun r => { r with bay := none }).modBay b fun x => { x with bound := none, keptHold := false }).modFeederOf b
      fun f => { f with pledge := f.pledge - s.pminOf b }

/-! ### The waiting lists (R98 to R101) -/

/-- Whether the record of slot `i` is older than that of slot `j`: by booking sequence, equal ones by creation (R51, R99). -/
def State.older (s : State) (i j : SlotNo) : Bool :=
  match s.record i, s.record j with
  | some a, some b => decide (a.seq < b.seq) || (a.seq == b.seq && decide (a.created < b.created))
  | _, _ => false

/-- A slot put at the place its age gives: ahead of the first younger record (R99). -/
def State.insertByAge (s : State) (i : SlotNo) : List SlotNo → List SlotNo
  | [] => [i]
  | j :: js => if s.older i j then i :: j :: js else j :: s.insertByAge i js

/-- A record joins the list of its priority (R100). -/
def State.joinList (s : State) (i : SlotNo) : State :=
  match s.record i with
  | none => s
  | some r =>
    match r.priority with
    | .high => { s with highList := s.insertByAge i s.highList }
    | .normal => { s with normalList := s.insertByAge i s.normalList }

/-- A record leaves its list, wherever it stands (R101). -/
def State.leaveLists (s : State) (i : SlotNo) : State :=
  { s with highList := s.highList.filter (· != i), normalList := s.normalList.filter (· != i) }

/-- A record becomes WAITING with its WAIT_END (R60, R64, R95). -/
def State.startWaiting (s : State) (i : SlotNo) (wait : Nat) : State :=
  ((s.modRecord i fun r => { r with state := .waiting }).joinList i).startDeadline .waitEnd (.slot i) wait

/-! ### Retirement (R54) -/

/-- Steps 4 to 7 of a retirement: the record gone, the outcome kept, the generation stepped, the mark set and its count handed
over, the slot at the tail of the free-slot list (R50, R54, R56). -/
def State.freeSlot (s : State) (i : SlotNo) (o : Ending) : State :=
  { s with
    slots := s.slots.set i.val
      { s.slots[i.val] with
        record := none, lastOutcome := some o, generation := nextGeneration s.slots[i.val].generation, mark := true },
    freeSlots := s.freeSlots ++ [i] }.evaluateChanges

/-- The retirement of the record of slot `i` with an outcome (R54): unbound, its deadline and its place in a waiting list gone,
the slot freed. The bay's new state is the cause's business. -/
def State.retire (s : State) (i : SlotNo) (o : Ending) : State :=
  match s.record i with
  | none => s
  | some _ => (((s.unbind i).dropDeadline (.slot i)).leaveLists i).freeSlot i o

/-! ### Creation (R48, R51, R52) -/

/-- The fields a record is created with. -/
structure NewRecord where
  credential : Credential
  cls        : VehicleClass
  large      : Bool
  zoneMask   : ZoneMask
  hold       : Nat
  wait       : Nat
  stay       : Nat
  cap        : Option Nat
  allotment  : Option Nat

/-- The priority a class gives (R48). -/
def State.priorityOf (s : State) : VehicleClass → Priority
  | .accessible => .high
  | .fleet => (s.plan.map (·.site.fleetPriority)).getD .normal
  | .pub => .normal

/-- The claim of a would-be record (R76, R77). -/
def NewRecord.claim (n : NewRecord) : Claim := ⟨n.cls, n.large, n.zoneMask, n.allotment, none⟩

/-- The record a creation writes; the rule that creates it makes it HELD, WAITING or ENGAGED next (R51, R52). -/
def State.newRecord (s : State) (n : NewRecord) : Reservation :=
  { state := .waiting, credential := n.credential, cls := n.cls, priority := s.priorityOf n.cls, large := n.large,
    zoneMask := n.zoneMask, hold := n.hold, wait := n.wait, stay := n.stay, cap := n.cap, bay := none,
    allotment := n.allotment, seq := s.bookingSeq, created := s.creations, arrivedAt := none, session := none,
    sessionDone := false, stayExhausted := false, migrations := 0 }

/-- A record written into slot `i`, the free-slot list left at `rest`, the booking sequence stepped (R50 to R52). -/
def State.takeSlot (s : State) (i : SlotNo) (rest : List SlotNo) (r : Reservation) : State :=
  { s with
    slots := s.slots.set i.val { s.slots[i.val] with record := some r, lastOutcome := none },
    freeSlots := rest, bookingSeq := satAdd Config.maxBookingSeq s.bookingSeq 1, creations := s.creations + 1 }

/-- A record created in the slot at the head of the free-slot list, if there is one (R52). -/
def State.create (s : State) (n : NewRecord) : Option (SlotNo × State) :=
  match s.freeSlots with
  | [] => none
  | i :: rest => some (i, s.takeSlot i rest (s.newRecord n))

/-! ### Holds (R59, R60, R64, R95, R106) -/

/-- A record becomes HELD at a bay: bound, the bay HELD with aspect RESERVED, HOLD_END = now + hold seconds. -/
def State.holdAt (s : State) (i : SlotNo) (b : BayNo) (hold : Nat) : State :=
  (((s.bind i b).modRecord i fun r => { r with state := .held }).enter b .held).startDeadline .holdEnd (.slot i) hold

/-! ### The service of a freed bay (R102 to R106) -/

/-- n of a ratio setting n:1; none under STRICT (R98). -/
def RatioSetting.bound : RatioSetting → Option Nat
  | .strict => none
  | .eightToOne => some 8
  | .fourToOne => some 4
  | .twoToOne => some 2

/-- The service: which of the two candidates is served, and the ratio counter after (R104). A NORMAL record served where no HIGH
record fits leaves the counter as it was, at n too (R104's text and the worked sequence of chapter 5; notes/assumptions/11.md). -/
def serveRatio (ratio : RatioSetting) (count : Nat) (high normal : Option SlotNo) : Option SlotNo × Nat :=
  match ratio.bound with
  | none => (high.or normal, count)
  | some n =>
    if count < n then
      match high with
      | some h => (some h, count + 1)
      | none => (normal, count)
    else
      match high, normal with
      | some _, some k => (some k, 0)
      | some h, none => (some h, count)
      | none, some k => (some k, count)
      | none, none => (none, count)

/-- Whether a waiting record fits a bay: the placement test for it as an unbound record (R103). -/
def State.fits (s : State) (b : BayNo) (i : SlotNo) : Bool :=
  match s.record i with
  | some r => s.placementTest r.claim b
  | none => false

/-- The placement of a waiting record at an offered bay (R106). -/
def State.placeWaiting (s : State) (i : SlotNo) (b : BayNo) : State :=
  match s.record i with
  | none => s
  | some r =>
    ((((s.leaveLists i).dropDeadline (.slot i)).holdAt i b r.hold).setMark i).bump .placedFromWaiting

/-- The offer of a bay that has become FREE: both lists scanned against the same state, one candidate served under the ratio
setting (R102 to R104). -/
def State.offer (s : State) (b : BayNo) : State :=
  match s.plan with
  | none => s
  | some plan =>
    let high := s.highList.find? (s.fits b)
    let normal := s.normalList.find? (s.fits b)
    let (served, count) := serveRatio plan.site.ratio s.ratioCount high normal
    let t := { s with ratioCount := count }
    match served with
    | some i => t.placeWaiting i b
    | none => t

/-- A bay made FREE and offered (R29, R39, R65, R69, R88). -/
def State.freeAndOffer (s : State) (b : BayNo) : State := (s.enter b .free).offer b

/-! ### Re-homing (R94, R95) -/

/-- The re-homing of a HELD record whose bay's new state the cause has set. -/
def State.rehome (s : State) (i : SlotNo) : State :=
  match s.record i with
  | none => s
  | some r =>
    let t := (s.unbind i).dropDeadline (.slot i)
    match t.select r.claim with
    | some b => ((t.holdAt i b r.hold).setMark i).bump .reHomes
    | none =>
      if 0 < r.wait then (t.startWaiting i r.wait).setMark i
      else (t.retire i .noShow).bump .noShows

/-! ### Engagement (R86) -/

/-- Record `i` engaged at bay `b`: bound there if it is not already, IDENTIFY_END removed, kept hold cleared, both ENGAGED,
STAY_END = now + stay limit inserted, the mark set (R86). -/
def State.engage (s : State) (i : SlotNo) (b : BayNo) : State :=
  match s.record i with
  | none => s
  | some r =>
    let t := if r.bay = some b then s else s.bind i b
    let u := (t.dropDeadline (.bay b)).modBay b fun x => { x.enter .engaged with keptHold := false }
    let v := u.modRecord i fun x => { x with state := .engaged, arrivedAt := some s.clock }
    (v.startDeadline .stayEnd (.slot i) r.stay).setMark i

end Sys2Proof.Machine
end

