-- ==== Sys2Proof/Machine/Sessions.lean ====
section
/-! DEFINITION. The start and the end of a session (R33, R35, R135), a bay leaving service by the part's own action (R25), and
the running out of a stay (R71). -/

namespace Sys2Proof.Machine

/-- A session starts at bay `b` for record `i` (R33, R135): GRACE_END removed, bay and record CHARGING, the next session number
taken, starved cleared, SESSIONS_STARTED counted, the mark set. The run it calls for is its caller's. -/
def State.startSession (s : State) (b : BayNo) (i : SlotNo) : State :=
  let t := (s.dropDeadline (.bay b)).modBay b fun x => { x.enter .charging with starved := false }
  let u := t.modRecord i fun r => { r with state := .charging, session := some s.sessionSeq }
  let v := u.modGrant b fun g => { g with startQueued := false, startOrdinal := s.starts }
  let w := { v with sessionSeq := satAdd Config.max32 s.sessionSeq 1, starts := s.starts + 1 }
  (w.setMark i).bump .sessionsStarted

/-- The session at bay `b`, if one runs, ends (R35, R135): the record becomes ENGAGED with session done set and no session
number, a CHARGING bay becomes ENGAGED, target and starved are cleared, the held-back increase and the pending target are
discarded. `stop` says whether the cause makes a STOP order, `mark` whether it marks the record (R56). The run it calls for is
its caller's. -/
def State.endSession (s : State) (b : BayNo) (stop mark : Bool) : State :=
  match s.sessionAt b with
  | none => s
  | some i =>
    let t := s.modRecord i fun r => { r with state := .engaged, session := none, sessionDone := true }
    let u := if mark then t.setMark i else t
    let v := if (u.bay b).state = .charging then u.enter b .engaged else u
    let w := (v.modBay b fun x => { x with starved := false }).modGrant b fun g =>
      { g with target := 0, heldBack := none, pending := none, startQueued := false }
    if stop then w.makeStop b else w

/-- A bay's HELD reservation, kept hold or not, loses the bay: it is re-homed (R25, R94). Another reservation stays bound. -/
def State.rehomeHeldAt (s : State) (b : BayNo) : State :=
  match (s.bay b).bound with
  | none => s
  | some i =>
    match s.record i with
    | some r => if r.state = .held then s.rehome i else s
    | none => s

/-- A bay leaves service by the part's own action (R25): OUT_OF_SERVICE for the cause's reason, its deadline removed, a HELD
reservation re-homed, BAY_ALERT raised. The session and the stranded grant are the cause's business. -/
def State.leaveService (s : State) (b : BayNo) (r : Reason) : State :=
  (((s.takeOut b r).dropDeadline (.bay b)).rehomeHeldAt b).modBay b (fun x => { x with keptHold := false }) |>.raise .bayAlert

/-- A bay already OUT_OF_SERVICE takes another reason by the part's own action, BAY_ALERT raised (R22, R26, R27, R164, R168). -/
def State.changeReason (s : State) (b : BayNo) (r : Reason) : State := (s.takeOut b r).raise .bayAlert

/-- The bay-side of the running out of a stay, where the record is CHARGING or ENGAGED (R71). -/
def State.stayRunsOut (s : State) (i : SlotNo) (r : Reservation) (mark : Bool) : Ev :=
  let t := s.modRecord i fun x => { x with stayExhausted := true }
  let u := if mark then t.setMark i else t
  match r.bay with
  | none => (u, false)
  | some b =>
    match r.state, (s.bay b).state with
    | .charging, .charging => ((u.endSession b true mark).startDeadline .graceEnd (.bay b) s.graceTime, true)
    | .charging, _ => (u.endSession b true mark, true)
    | .engaged, .engaged =>
      if (u.deadlineOf (.bay b)).isSome then (u, false) else (u.startDeadline .graceEnd (.bay b) s.graceTime, false)
    | _, _ => (u, false)

/-- The expiry of a STAY_END, its entry already out of the list (R71): an expiry finds the record ENGAGED or CHARGING (R117); in
any other state nothing happens (notes/assumptions/20.md). `mark` is clear when an AMEND that names the record takes it
(R62). -/
def State.stayExpires (s : State) (i : SlotNo) (mark : Bool) : State :=
  match s.record i with
  | none => s
  | some r =>
    match r.state with
    | .charging | .engaged => takeRun (s.stayRunsOut i r mark)
    | .waiting | .held | .overstay => s

end Sys2Proof.Machine
end

