-- ==== Sys2Proof/Machine/Presentations.lean ====
section
/-! DEFINITION. The seven cases of a credential presentation (R83 to R93). -/

namespace Sys2Proof.Machine

/-- A refused presentation: a refuse flash for the unit, and ARRIVALS_REFUSED (R85). -/
def State.refusePresentation (s : State) (b : BayNo) : State := (s.aspectOrder b true).bump .arrivalsRefused

/-- Case 1, the matched arrival (R86). -/
def State.matchedArrival (s : State) (b : BayNo) (i : SlotNo) : State := (s.engage i b).bump .arrivalsMatched

/-- The bay a record has left, settled by the state it had: a HELD bay is freed and offered, an identifying one goes on
without its kept hold (R88). -/
def State.settleLeftBay (s : State) (y : BayNo) (before : BayState) : State :=
  if before = .held then s.freeAndOffer y else s

/-- Case 2, the migration of a record HELD at another bay (R87, R88). -/
def State.migrate (s : State) (b : BayNo) (i : SlotNo) (r : Reservation) : State :=
  if s.presentationTest { r.claim with leaving := r.bay } b then
    let t := (((s.unbind i).dropDeadline (.slot i)).engage i b).modRecord i fun x =>
      { x with migrations := satAdd Config.maxMigrations x.migrations 1 }
    let u := t.bump .migrations
    match r.bay with
    | some y => u.settleLeftBay y (s.bay y).state
    | none => u
  else s.refusePresentation b

/-- Case 3, the waiting arrival (R89). -/
def State.waitingArrival (s : State) (b : BayNo) (i : SlotNo) (r : Reservation) : State :=
  if s.presentationTest r.claim b then
    (((s.leaveLists i).dropDeadline (.slot i)).engage i b).bump .arrivalsMatched
  else s.refusePresentation b

/-- The record the part creates itself at a presentation (R52): all zones, not large, no demand cap, the site record's
defaults. -/
def newArrival (site : Site) (c : Credential) (cls : VehicleClass) (entry : Option Nat) : NewRecord where
  credential := c
  cls        := cls
  large      := false
  zoneMask   := 0xFF
  hold       := site.defaultHold
  wait       := site.defaultWait
  stay       := site.defaultStay
  cap        := none
  allotment  := entry

/-- A record created and engaged at once, or the refusal where no slot is FREE (R91, R92). -/
def State.admitNew (s : State) (b : BayNo) (n : NewRecord) (counted : Counter) : State :=
  match s.create n with
  | some (i, t) => (t.engage i b).bump counted
  | none => s.refusePresentation b

/-- Case 5, the allotment arrival under entry number `n` (R91). -/
def State.allotmentArrival (s : State) (site : Site) (b : BayNo) (c : Credential) (n : Nat) (a : Allotment) : State :=
  let new := newArrival site c a.cls (some n)
  if a.covers b && s.presentationTest new.claim b then s.admitNew b new .arrivalsMatched else s.refusePresentation b

/-- The conditions of a walk-in other than a FREE slot (R92). -/
def State.walkInAllowed (s : State) (site : Site) (b : BayNo) (c : Claim) : Bool :=
  match (s.bay b).place with
  | none => false
  | some p =>
    (match s.zone p.zone with | some z => z.walkInOpen && !z.closed | none => false) &&
    (p.kind == .standard || p.kind == .large) && (s.exclusiveAt b).isEmpty && s.pledgeTest c p &&
    decide (site.walkInReserve < s.freeCount)

/-- Case 6, the walk-in (R92). -/
def State.walkIn (s : State) (site : Site) (b : BayNo) (c : Credential) : State :=
  let new := newArrival site c .pub none
  if s.walkInAllowed site b new.claim then s.admitNew b new .walkinsAdmitted else s.refusePresentation b

/-- Case 7, a vehicle at a bay held for someone else: refused, the bay BLOCKED, the hold re-homed (R93). -/
def State.wrongBay (s : State) (b : BayNo) : State :=
  ((((s.refusePresentation b).dropDeadline (.bay b)).enter b .blocked).raise .bayAlert).rehomeHeldAt b
    |>.modBay b fun x => { x with keptHold := false }

/-- A presentation at an IDENTIFYING or BLOCKED bay with no kept hold (R84, rows 3 to 7). -/
def State.presentUnheld (s : State) (b : BayNo) (c : Credential) : State :=
  match s.findLive c with
  | some i =>
    match s.record i with
    | none => s
    | some r =>
      match r.state with
      | .held => s.migrate b i r
      | .waiting => s.waitingArrival b i r
      | .engaged | .charging | .overstay => s.refusePresentation b
  | none =>
    match s.plan with
    | none => s
    | some plan =>
      match longestPrefix plan.allotments c with
      | some (n, a) => s.allotmentArrival plan.site b c n a
      | none => s.walkIn plan.site b c

/-- A presentation of credential `c` at bay `b` (R83, R84). -/
def State.present (s : State) (b : BayNo) (c : Credential) : State :=
  match (s.bay b).state with
  | .identifying =>
    if (s.bay b).keptHold then
      match s.findLive c with
      | some i => if (s.bay b).bound = some i then s.matchedArrival b i else s.wrongBay b
      | none => s.wrongBay b
    else s.presentUnheld b c
  | .blocked => s.presentUnheld b c
  | .unplanned | .free | .held | .engaged | .charging | .overstay | .outOfService => s

end Sys2Proof.Machine
end

