-- ==== Sys2Proof/Machine/Reports.lean ====
section
/-! DEFINITION. A good report at a bay: its eight stages (R24 to R36), the trim rules of stage 7 (R143 to R146), the verify, the
returning-unit rule and the aspect comparison of stage 8 (R137, R167 to R169), and re-derivation (R39). -/

namespace Sys2Proof.Machine

/-! ### Stage 1: faults (R26, R27) -/

/-- A bay whose post is judged faulty: in service it leaves with reason POST_FAULT, out of service its reason becomes POST_FAULT;
a session ends with no STOP order and the stranded grant is set (R26, R168). -/
def State.makeFaulty (s : State) (b : BayNo) (value : Nat) : State :=
  if (s.bay b).state.inService then ((s.leaveService b .postFault).endSession b false true).strand b value
  else ((s.changeReason b .postFault).endSession b false true).strand b value

/-- A report that is a post fault, by the bay's state (R26). At a bay that leaves service the gate is tested (R132). -/
def State.postFaultAt (s : State) (b : BayNo) (inForce : Nat) : Ev :=
  let value := max (s.grant b).acknowledged inForce
  match (s.bay b).state with
  | .unplanned => (s, false)
  | .outOfService =>
    match (s.bay b).reason with
    | some .detectorFault | some .unheard | some .linkLost => (s.makeFaulty b value, true)
    | some .postFault | some .operator | none =>
      if (s.grant b).stranded < value then (s.strand b value, true) else (s, false)
  | .free | .held | .identifying | .blocked | .engaged | .charging | .overstay =>
    ((s.makeFaulty b value).testGateOf b, true)

/-- A report with occupancy code DETECTOR_FAULT and no post fault (R27). -/
def State.detectorFaultAt (s : State) (b : BayNo) : State :=
  match (s.bay b).state with
  | .unplanned => s
  | .outOfService =>
    match (s.bay b).reason with
    | some .unheard | some .linkLost => s.changeReason b .detectorFault
    | some .detectorFault | some .postFault | some .operator | none => s
  | .free | .held | .identifying | .blocked | .engaged | .charging | .overstay => s.leaveService b .detectorFault

/-- Stage 1 (R26, R27). -/
def State.stage1 (s : State) (b : BayNo) (r : Report) : Ev :=
  if r.postFault then s.postFaultAt b r.inForce
  else if r.detectorFault then (s.detectorFaultAt b, false)
  else (s, false)

/-! ### Stage 2: occupancy (R28 to R31) -/

/-- IDENTIFY_END = now + identify time inserted for a bay made IDENTIFYING (R28, R39, R45). -/
def State.startIdentifying (s : State) (b : BayNo) : State :=
  (s.enter b .identifying).startDeadline .identifyEnd (.bay b) s.identifyTime

/-- An arrival (R28). -/
def State.arrive (s : State) (b : BayNo) : State :=
  let t := s.modBay b fun x => { x with occupancy := .occupied }
  match (s.bay b).state with
  | .free => t.startIdentifying b
  | .held =>
    let u := (t.startIdentifying b).modBay b fun x => { x with keptHold := true }
    match (s.bay b).bound with
    | some i => u.dropDeadline (.slot i)
    | none => u
  | .unplanned | .identifying | .blocked | .engaged | .charging | .overstay | .outOfService => t

/-- The outcome a departure gives a record by its state: none for a state no departure finds (R29, R31). -/
def departureOutcome (r : Reservation) : Option Ending :=
  match r.state with
  | .engaged => some (if r.sessionDone then .completed else .leftUncharged)
  | .overstay => some .overstayed
  | .waiting | .held | .charging => none

/-- The record bound to a bay retired by its vehicle's departure (R29, R31). -/
def State.retireDeparted (s : State) (b : BayNo) : State :=
  match (s.bay b).bound with
  | none => s
  | some i =>
    match (s.record i).bind departureOutcome with
    | some o => s.retire i o
    | none => s

/-- The hold of an identifying bay restored at a departure (R29). -/
def State.restoreHold (s : State) (b : BayNo) : State :=
  let t := (s.enter b .held).modBay b fun x => { x with keptHold := false }
  match (s.bay b).bound with
  | none => t
  | some i =>
    match s.record i with
    | some r => t.startDeadline .holdEnd (.slot i) r.hold
    | none => t

/-- A departure (R29, R31). -/
def State.depart (s : State) (b : BayNo) : State :=
  let t := (s.modBay b fun x =>
    { x with occupancy := .empty, credential := none, occupancyHeld := false }).dropDeadline (.bay b)
  match (s.bay b).state with
  | .engaged | .overstay => (t.retireDeparted b).freeAndOffer b
  | .identifying => if (s.bay b).keptHold then t.restoreHold b else t.freeAndOffer b
  | .blocked => t.freeAndOffer b
  | .outOfService => t.retireDeparted b
  | .unplanned | .free | .held | .charging => t

/-- An EMPTY report held as OCCUPIED (R30). -/
def State.holdOccupied (s : State) (b : BayNo) : State :=
  (s.modBay b fun x => { x with occupancyHeld := true }).bump .detectorDisagree

/-- Stage 2 (R28 to R31). -/
def State.stage2 (s : State) (b : BayNo) (r : Report) : State :=
  match r.occupancy, (s.bay b).occupancy with
  | .detectorFault, _ => s
  | .occupied, .empty => (s.modBay b fun x => { x with occupancyHeld := false }).arrive b
  | .occupied, .occupied => s.modBay b fun x => { x with occupancyHeld := false }
  | .empty, .empty => s
  | .empty, .occupied => if (s.bay b).plug = .unplugged then s.depart b else s.holdOccupied b

/-! ### Stage 3: credential (R32) -/

/-- The credential of a report that is to be presented: the bay is OCCUPIED after stage 2 and the credential is not the last one
seen. A report with occupancy code DETECTOR_FAULT presents none (R27, R32; notes/assumptions/13.md). -/
def State.freshCredential (s : State) (b : BayNo) (r : Report) : Option Credential :=
  match r.cred with
  | none => none
  | some c =>
    if r.occupancy ≠ .detectorFault ∧ (s.bay b).occupancy = .occupied ∧ (s.bay b).credential ≠ some c then some c else none

/-- Stage 3: presented, then stored (R32). -/
def State.stage3 (s : State) (b : BayNo) (r : Report) : State :=
  match s.freshCredential b r with
  | some c => (s.present b c).modBay b fun x => { x with credential := some c }
  | none => s

/-! ### Stages 4 and 5: plug and stop (R33, R34) -/

/-- A plug state that can start a session (R33). -/
def PlugState.plugs : PlugState → Bool
  | .plugged | .charging => true
  | .unplugged | .postFault => false

/-- A session start at an ENGAGED bay with a plugged post: refused with a refuse flash while stay exhausted is set (R33). -/
def State.tryStart (s : State) (b : BayNo) : Ev :=
  match (s.bay b).bound with
  | none => (s, false)
  | some i =>
    match s.record i with
    | none => (s, false)
    | some r => if r.stayExhausted then (s.aspectOrder b true, false) else (s.startSession b i, true)

/-- A session ended from the bay by an unplug or a stop: at CHARGING the grace starts (R34, R35). -/
def State.userEnds (s : State) (b : BayNo) : Ev :=
  let t := s.endSession b true true
  (if (s.bay b).state = .charging then t.startDeadline .graceEnd (.bay b) s.graceTime else t, true)

/-- Stage 4 (R33, R34). `became` says that the bay became ENGAGED during this report. -/
def State.stage4 (s : State) (b : BayNo) (r : Report) (became : Bool) : Ev :=
  let x := s.bay b
  let e : Ev :=
    if x.state = .engaged ∧ s.charging b = false ∧ r.plug.plugs = true ∧ (x.plug = .unplugged ∨ became = true) then s.tryStart b
    else if s.charging b = true ∧ r.plug = .unplugged ∧ x.plug.plugs = true then s.userEnds b
    else (s, false)
  (e.1.modBay b fun y => { y with plug := r.plug }, e.2)

/-- Stage 5 (R34). -/
def State.stage5 (s : State) (b : BayNo) (r : Report) : Ev :=
  let e : Ev := if r.stop = true ∧ (s.bay b).stop = false ∧ s.charging b = true then s.userEnds b else (s, false)
  (e.1.modBay b fun y => { y with stop := r.stop }, e.2)

/-- Stage 6 (R36). -/
def State.stage6 (s : State) (b : BayNo) (r : Report) : Ev :=
  (s.modBay b fun y => { y with demand := r.demand }, decide ((s.bay b).demand ≠ r.demand) && s.charging b)

/-- Stages 1 to 6 of a report, and whether one of them calls for an allocation run (R24). -/
def State.stages1to6 (s : State) (b : BayNo) (r : Report) : Ev :=
  let e1 := s.stage1 b r
  let s2 := e1.1.stage2 b r
  let s3 := s2.stage3 b r
  let became := (s2.bay b).state != .engaged && (s3.bay b).state == .engaged
  let e4 := s3.stage4 b r became
  let e5 := e4.1.stage5 b r
  let e6 := e5.1.stage6 b r
  (e6.1, e1.2 || e4.2 || e5.2 || e6.2)

/-! ### Stage 7: metered power and trim (R143, R145, R146) -/

/-- The last metered power of a bay replaced, and its feeder's metered load with it (R143). -/
def State.meter (s : State) (b : BayNo) (value : Nat) : State :=
  let old := (s.bay b).metered
  (s.modBay b fun x => { x with metered := value }).modFeederOf b fun f =>
    { f with monitor := f.monitor.map fun m => { m with load := m.load - old + value } }

/-- The trim state after a report's comparison (R146). -/
def Monitor.advance (m : Monitor) : Monitor :=
  match m.state with
  | .normal => if m.high < m.load then { m with state := .trimmed, step := 1 } else { m with step := 0 }
  | .trimmed =>
    if m.load < m.low then { m with state := .normal, step := 0 }
    else if m.load ≤ m.high then { m with state := .eased } else m
  | .eased =>
    if m.load < m.low then { m with state := .normal, step := 0 }
    else if m.high < m.load then { m with state := .trimmed, step := min 3 (m.step + 1) } else m

/-- The trim rules of a feeder evaluated: FEEDER raised at an entry into TRIMMED and at a return to NORMAL, TRIM_ENTRIES counted
at an entry, a run called for if the step changed (R145, R146). -/
def State.evaluateTrim (s : State) (f : FeederNo) : Ev :=
  match (s.feeder f).monitor with
  | none => (s, false)
  | some m =>
    let n := m.advance
    let t := s.modFeeder f fun x => { x with monitor := some n }
    let u := if m.state ≠ .trimmed ∧ n.state = .trimmed then (t.raise .feeder).bump .trimEntries else t
    let v := if m.state ≠ .normal ∧ n.state = .normal then u.raise .feeder else u
    (v, decide (m.step ≠ n.step))

/-- Stage 7, with its run if one is called for (R36, R145). -/
def State.stage7 (s : State) (b : BayNo) (r : Report) : State :=
  let t := s.meter b r.metered
  match t.feederOf b with
  | some f => takeRun (t.evaluateTrim f)
  | none => t

/-! ### Stage 8: verify, returning unit, aspect (R137, R167 to R169) -/

/-- Both verify counts returned to 0. -/
def BayUnit.clearVerify (u : BayUnit) : BayUnit := { u with mismatch := 0, resends := 0 }

/-- The post judged faulty by the verify (R168). -/
def State.judgeFaulty (s : State) (b : BayNo) (inForce : Nat) : State :=
  let t := s.makeFaulty b (max (s.grant b).acknowledged inForce)
  (t.modUnit b (·.clearVerify)).testGateOf b

/-- The verify's re-send: a grant order of the acknowledged grant, with STOP if no session runs at the bay (R167). -/
def State.resend (s : State) (b : BayNo) : State :=
  let t := s.handGrant b (s.grant b).acknowledged (if s.charging b then .plain else .stop)
  t.modUnit b fun u => { u with mismatch := 0, resends := u.resends + 1 }

/-- The verify at a report (R167). -/
def State.verify (s : State) (b : BayNo) (inForce : Nat) : Ev :=
  if (s.bay b).state = .outOfService ∧ (s.bay b).reason = some .postFault then (s.modUnit b (·.clearVerify), false)
  else if (s.grant b).outstanding.isSome then (s.modUnit b fun u => { u with mismatch := 0 }, false)
  else if inForce = (s.grant b).acknowledged then (s.modUnit b (·.clearVerify), false)
  else if (s.unit b).mismatch + 1 < 2 then (s.modUnit b fun u => { u with mismatch := u.mismatch + 1 }, false)
  else if (s.unit b).resends < Config.maxResends then (s.resend b, false)
  else (s.judgeFaulty b inForce, true)

/-- The returning-unit rule (R137). -/
def State.returningUnit (s : State) (b : BayNo) (inForce : Nat) : Ev :=
  let g := s.grant b
  if 0 < g.stranded ∧ g.zeroAcked = true ∧ g.acknowledged = 0 ∧ g.outstanding = none ∧ inForce = 0 then
    (s.clearStrandedGrant b, true)
  else (s, false)

/-- The reported aspect in force compared with the recorded one, when no entry for the unit is queued or on the line (R169). -/
def State.compareAspect (s : State) (b : BayNo) (aspect : Nat) : State :=
  let l := s.lane (laneOf b)
  let queued := l.queue.any fun e => e.bay == b
  let onLine := match l.line with | some x => x.bay == b | none => false
  if queued || onLine || aspect == (s.bay b).aspect.code then s else s.aspectOrder b false

/-- Stage 8, with its run if one is called for (R36, R137, R167 to R169). The order of its three parts is the model's choice
(notes/assumptions/29.md). -/
def State.stage8 (s : State) (b : BayNo) (r : Report) : State :=
  let e := s.verify b r.inForce
  let f := e.1.returningUnit b r.inForce
  takeRun (f.1.compareAspect b r.aspect, e.2 || f.2)

/-! ### Re-derivation (R39) -/

/-- Stage 2 at a first good reply: the occupancy is stored under R30's hold, but no departure is retired (R39). -/
def State.storeOccupancy (s : State) (b : BayNo) (r : Report) : State :=
  match r.occupancy, (s.bay b).occupancy with
  | .detectorFault, _ => s
  | .occupied, _ => s.modBay b fun x => { x with occupancy := .occupied, occupancyHeld := false }
  | .empty, .empty => s
  | .empty, .occupied =>
    if (s.bay b).plug = .unplugged then
      s.modBay b fun x => { x with occupancy := .empty, credential := none, occupancyHeld := false }
    else s.holdOccupied b

/-- What follows at a bay left ENGAGED by the re-derivation: a session starts if the post is plugged (R33, second case);
otherwise grace starts if session done or stay exhausted is set (R39; notes/assumptions/14.md). -/
def State.resumeEngaged (s : State) (b : BayNo) (r : Report) : Ev :=
  if (s.bay b).state = .engaged then
    let e : Ev := if r.plug.plugs then s.tryStart b else (s, false)
    match ((s.bay b).bound).bind s.record with
    | some res =>
      if (e.1.bay b).state = .engaged ∧ (res.sessionDone = true ∨ res.stayExhausted = true) then
        (e.1.startDeadline .graceEnd (.bay b) s.graceTime, e.2)
      else e
    | none => e
  else (s, false)

/-- A returning OCCUPIED bay with no bound record: IDENTIFYING, the report's credential presented if it is fresh (R39). -/
def State.rederiveUnbound (s : State) (b : BayNo) (r : Report) (fresh : Option Credential) : Ev :=
  let t := s.startIdentifying b
  let u := match fresh with
    | some c => t.present b c
    | none => t
  u.resumeEngaged b r

/-- The rows of R39: the bay takes its state from the occupancy and its bound reservation. -/
def State.rederiveRow (s : State) (b : BayNo) (r : Report) (fresh : Option Credential) : Ev :=
  match (s.bay b).occupancy, (s.bay b).bound with
  | .empty, none => (s.freeAndOffer b, false)
  | .empty, some i => ((s.retire i .leftUnseen).freeAndOffer b, false)
  | .occupied, none => s.rederiveUnbound b r fresh
  | .occupied, some i =>
    match s.record i with
    | none => s.rederiveUnbound b r fresh
    | some res =>
      match res.state with
      | .engaged => (s.enter b .engaged).resumeEngaged b r
      | .charging => (s.enter b .charging, false)
      | .overstay => (s.enter b .overstay, false)
      | .held | .waiting => s.rederiveUnbound b r fresh

/-- Whether the allocator makes a STOP at a re-derivation: a bay with a stranded grant that returns, return requested set, from
POST_FAULT or OPERATOR (R137). -/
def State.stopsAtReturn (s : State) (b : BayNo) : Bool :=
  (s.bay b).returnRequested && decide (0 < (s.grant b).stranded) &&
    ((s.bay b).reason == some .postFault || (s.bay b).reason == some .operator)

/-- Stages 4 and 5 at a bay that re-derives: at a first good reply they store and end nothing (R39). -/
def State.rederiveStages45 (s : State) (first : Bool) (b : BayNo) (r : Report) : Ev :=
  if first then (s.modBay b fun x => { x with plug := r.plug, stop := r.stop }, false)
  else
    let e4 := s.stage4 b r false
    let e5 := e4.1.stage5 b r
    (e5.1, e4.2 || e5.2)

/-- A fresh credential stored as the last one seen (R39). -/
def State.storeCredential (s : State) (b : BayNo) : Option Credential → State
  | some c => s.modBay b fun x => { x with credential := some c }
  | none => s

/-- Stages 1 to 6 of a report at a bay that re-derives (R39). `first` says that it is the first good reply of an UNHEARD or LOST
unit. -/
def State.rederive (s : State) (first : Bool) (b : BayNo) (r : Report) : Ev :=
  let e1 := s.stage1 b r
  let s2 := if first then e1.1.storeOccupancy b r else e1.1.stage2 b r
  let fresh := s2.freshCredential b r
  let s3 := s2.storeCredential b fresh
  let e5 := s3.rederiveStages45 first b r
  let e6 := e5.1.stage6 b r
  let s7 := e6.1.modBay b fun x => { x with returnRequested := false }
  let called := e1.2 || e5.2 || e6.2
  if r.postFault || r.detectorFault then (s7, called)
  else
    let s8 := if s.stopsAtReturn b then s7.makeStop b else s7
    let e9 := s8.rederiveRow b r fresh
    (e9.1, called || e9.2)

/-- Whether a report re-derives its bay: OUT_OF_SERVICE with return requested set, or a first good reply at reason UNHEARD or
LINK_LOST (R39, R165). -/
def Bay.rederives (x : Bay) (first : Bool) : Bool :=
  x.state == .outOfService &&
    (x.returnRequested || (first && (x.reason == some .unheard || x.reason == some .linkLost)))

/-- A good report taken by the Bay Table, its unit's link state already brought up to date (R24, R39, R165, R166). -/
def State.takeReport (s : State) (first : Bool) (b : BayNo) (r : Report) : State :=
  let e := if (s.bay b).rederives first then s.rederive first b r else s.stages1to6 b r
  ((takeRun e).stage7 b r).stage8 b r

end Sys2Proof.Machine
end

