-- ==== Sys2Proof/Machine/Exchanges.lean ====
section
/-! DEFINITION. The exchanges of a lane: how a reply frame is judged (R156, R157, R195), how an exchange ends (R161 to R166) and
how the next is chosen and started (R155, R159, R160); and the meanings of REPORT, ACK, REPLY_TIMEOUT, BAD_REPLY_FRAME and
LATE_FRAME. -/

namespace Sys2Proof.Machine

/-! ### The judgement of a reply (R156) -/

/-- How a failed exchange is named: by the first check that fails, or as a missing reply (R156). -/
inductive FrameFailure where
  | missingReply | crc | address | kind | echo
  deriving DecidableEq, Repr

/-- The length of a reply, fixed by its request: 21 bytes to a POLL, 7 to an ORDER (R156). -/
def Exchange.replyLength (x : Exchange) : Nat := if x.order.isSome then 7 else 21

/-- The kind byte expected of a reply (R156, R195). -/
def Exchange.replyKind (x : Exchange) : Byte := if x.order.isSome then 0x82 else 0x81

/-- Whether the CRC a frame carries in its last two bytes, high byte first, is the CRC of the rest (R157). -/
def crcMatches (frame : List Byte) : Bool :=
  let n := frame.length - 2
  let crc := (crc16 (frame.take n)).toNat
  frame.drop n == [BitVec.ofNat 8 (crc / 256), BitVec.ofNat 8 crc]

/-- The echo an ACK must carry: the grant and aspect bytes of the ORDER (R156, R195). -/
def Exchange.echoes (x : Exchange) (frame : List Byte) : Bool :=
  match x.order with
  | none => true
  | some o => (frame.drop 2).take 3 == le 2 o.grant ++ le 1 o.aspect.code

/-- The received bytes of an exchange judged: absent when the reply is good. Bytes beyond the reply's length are outside the
exchange; too few are a reply that stalled, which fails by CRC (R156; notes/assumptions/12.md). -/
def judgeReply (x : Exchange) (received : List Byte) : Option FrameFailure :=
  let frame := received.take x.replyLength
  if received = [] then some .missingReply
  else if frame.length < x.replyLength ∨ crcMatches frame = false then some .crc
  else if frame.head? ≠ some (BitVec.ofNat 8 (addrOf x.bay).val) then some .address
  else if (frame.drop 1).head? ≠ some x.replyKind then some .kind
  else if x.echoes frame = false then some .echo
  else none

/-! ### Starting the next exchange (R155, R159, R160) -/

/-- The addresses of a lane's planned bays, ascending (R154). -/
def State.plannedAddrs (s : State) (l : LaneNo) : List LaneAddr :=
  (List.finRange 128).filter fun a => (s.bay (bayAt l a)).place.isSome

/-- The next address of the poll cycle: the lowest planned address above the cursor, or the lowest of all (R160). -/
def State.nextPoll (s : State) (l : LaneNo) : Option LaneAddr :=
  let addrs := s.plannedAddrs l
  match (s.lane l).cursor with
  | none => addrs.head?
  | some c => (addrs.find? fun a => decide (c < a)).or addrs.head?

/-- The lane's reply timeout, read from the active plan when an exchange starts (R154). -/
def State.replyTimeout (s : State) (l : LaneNo) : Nat :=
  match s.plan with
  | some p => p.site.replyTimeouts[l.val]
  | none => 0

/-- A POLL of an address starts, the cursor on it (R160). -/
def State.startPoll (s : State) (l : LaneNo) (a : LaneAddr) : State :=
  s.modLane l fun x =>
    { x with line := some { bay := bayAt l a, timeout := s.replyTimeout l, order := none }, cursor := some a, orderCount := 0,
             sent := exchangeFrame (bayAt l a) none }

/-- The content of an ORDER for a queue entry, fixed as its exchange starts (R130, R155). -/
def State.orderContent (s : State) (e : Entry) : OrderContent :=
  let aspect := (s.bay e.bay).aspect
  match e.grant with
  | some o => ⟨o.value, o.flag, aspect, e.flash, true⟩
  | none =>
    let g := s.grant e.bay
    let carried := match g.outstanding with | some o => o.value | none => g.acknowledged
    ⟨carried, .plain, aspect, e.flash, false⟩

/-- The first entry of a queue that meets a test put on the line. -/
def putOnLine (p : Entry → Bool) : List Entry → List Entry
  | [] => []
  | e :: es => if p e then { e with onLine := true } :: es else e :: putOnLine p es

/-- The ORDER for the first entry that meets a test starts (R159, rows 2 and 3). -/
def State.startOrder (s : State) (l : LaneNo) (p : Entry → Bool) (e : Entry) : State :=
  let o := s.orderContent e
  s.modLane l fun x =>
    { x with line := some { bay := e.bay, timeout := s.replyTimeout l, order := some o }, queue := putOnLine p x.queue,
             orderCount := min Config.maxOrdersInARow (x.orderCount + 1), sent := exchangeFrame e.bay (some o) }

/-- Whether an entry is of class decrease (R158). -/
def Entry.isDecrease (e : Entry) : Bool :=
  match e.grant with
  | some o => o.decrease
  | none => false

/-- Rows 4 and 5 of R159: a POLL if the lane has a planned bay, otherwise the lane is idle. -/
def State.pollOrIdle (s : State) (l : LaneNo) : State :=
  match s.nextPoll l with
  | some a => s.startPoll l a
  | none => s.modLane l fun x => { x with orderCount := 0 }

/-- The choice of a lane's next exchange (R159). -/
def State.chooseNext (s : State) (l : LaneNo) : State :=
  let x := s.lane l
  if Config.maxOrdersInARow ≤ x.orderCount ∧ (s.nextPoll l).isSome then s.pollOrIdle l
  else
    match x.queue.find? (·.isDecrease) with
    | some e => s.startOrder l (·.isDecrease) e
    | none =>
      match x.queue with
      | e :: _ => s.startOrder l (fun _ => true) e
      | [] => s.pollOrIdle l

/-- The idle lanes start their next exchange: the event that first gives a lane a planned bay is a plan apply (R155, R159). -/
def State.startIdleLanes (s : State) : State :=
  allLanes.foldl (fun t l => if (t.lane l).line.isNone then t.chooseNext l else t) s

/-! ### Failed exchanges and lost units (R162 to R164) -/

/-- The link state after a failed exchange (R162). -/
def BayUnit.failed (u : BayUnit) : BayUnit :=
  match u.link with
  | .unheard => { u with countdown := 0 }
  | .active => { u with link := .silent, countdown := 2 }
  | .silent =>
    if u.countdown ≤ 1 then { u with link := .lost, countdown := 0 } else { u with countdown := u.countdown - 1 }
  | .lost => { u with countdown := 0 }

/-- The link state after a good exchange (R162). -/
def BayUnit.good (u : BayUnit) : BayUnit := { u with link := .active, countdown := 3 }

/-- The bay's side of a unit becoming LOST (R164). -/
def State.bayLosesUnit (s : State) (b : BayNo) : State :=
  match (s.bay b).state with
  | .unplanned => s
  | .outOfService =>
    match (s.bay b).reason with
    | some .detectorFault => (s.changeReason b .linkLost).endSession b false true
    | some .postFault | some .operator | some .unheard | some .linkLost | none => s
  | .free | .held | .identifying | .blocked | .engaged | .charging | .overstay =>
    (s.leaveService b .linkLost).endSession b false true

/-- A unit becomes LOST (R163): its entries leave the queue, its outstanding order is dropped into the stranded grant, the gate
is tested, the bay's side is taken, and one allocation run ends the event. -/
def State.unitLost (s : State) (b : BayNo) : State :=
  let t := (s.bump .unitsLost).modLane (laneOf b) fun l => { l with queue := l.queue.filter fun e => e.bay != b }
  let u := (t.modUnit b (·.clearVerify)).strand b (s.grant b).committed
  let v := u.modGrant b fun g => { g with outstanding := none, pending := none, heldBack := none }
  ((v.testGateOf b).bayLosesUnit b).allocationRun

/-- A failed exchange with a unit (R156, R162). -/
def State.exchangeFailed (s : State) (b : BayNo) : State :=
  let t := (s.bump .linkFailures).modUnit b (·.failed)
  if (s.unit b).link ≠ .lost ∧ (t.unit b).link = .lost then t.unitLost b else t

/-! ### Good exchanges (R161, R165, R166) -/

/-- A good REPORT: the first of an UNHEARD or LOST unit makes it ACTIVE and queues its zero STOP before the report is taken
(R165); another is taken from a unit brought to ACTIVE (R166). -/
def State.pollEndsGood (s : State) (b : BayNo) (r : Report) : State :=
  if (s.unit b).link.reachable then (s.modUnit b (·.good)).takeReport false b r
  else (((s.modUnit b fun u => u.good.clearVerify).handGrant b 0 .stop)).takeReport true b r

/-- A good ACK: a grant order's goes to the Feeder Allocator, unless a soft reset has dropped its entry (R161, R172). -/
def State.orderEndsGood (s : State) (x : Exchange) (o : OrderContent) : State :=
  let t := s.modUnit x.bay (·.good)
  if o.isGrant && !x.dropped then t.acknowledge x.bay else t

/-- The line free again; the entry the exchange carried leaves the queue or stays at its place (R158, R161). -/
def State.freeLine (s : State) (l : LaneNo) (leaves : Bool) : State :=
  s.modLane l fun x =>
    { x with line := none,
             queue := (if leaves then x.queue.filter (fun e => !e.onLine) else x.queue).map fun e => { e with onLine := false } }

/-- What the end of an exchange brings about, before the lane chooses its next (R161, R162). The end of an exchange with a bay
that a plan apply has removed is discarded (R14). -/
def State.takeEnd (s : State) (l : LaneNo) (x : Exchange) (received : List Byte) : State :=
  if x.removed then s.freeLine l true
  else
    match judgeReply x received, x.order with
    | some _, _ => (s.freeLine l false).exchangeFailed x.bay
    | none, none => (s.freeLine l false).pollEndsGood x.bay (readReport ((received.drop 2).take 17))
    | none, some o => (s.freeLine l true).orderEndsGood x o

/-- The end of the exchange on a lane's line: its consequences, the event's aspect orders, then the choice of the next exchange
(R23, R159). With no exchange on the line the bytes are discarded uncounted (R156). -/
def State.endExchange (s : State) (l : LaneNo) (received : List Byte) : State :=
  match (s.lane l).line with
  | none => s
  | some x => (State.aspectOrders s (s.takeEnd l x received)).chooseNext l

/-! ### The meanings -/

/-- REPORT: a reply of 21 bytes is complete (R156, R166). -/
def execReport (l : LaneNo) (frame : List Byte) (s : State) : Host.Outcome State Fault Refusal := .next (s.endExchange l frame)

/-- ACK: a reply of 7 bytes is complete (R156, R161). -/
def execAck (l : LaneNo) (frame : List Byte) (s : State) : Host.Outcome State Fault Refusal := .next (s.endExchange l frame)

/-- REPLY_TIMEOUT: no reply began, or it stalled (R156). -/
def execReplyTimeout (l : LaneNo) (s : State) : Host.Outcome State Fault Refusal := .next (s.endExchange l [])

/-- BAD_REPLY_FRAME: a complete reply that fails a check; the checks are made on its bytes (R156). -/
def execBadReplyFrame (l : LaneNo) (frame : List Byte) (s : State) : Host.Outcome State Fault Refusal :=
  .next (s.endExchange l frame)

/-- LATE_FRAME: a frame outside an exchange of its lane is discarded uncounted (R156). -/
def execLateFrame (_l : LaneNo) (_frame : List Byte) (s : State) : Host.Outcome State Fault Refusal := .next s

end Sys2Proof.Machine
end

