-- ==== Sys2Proof/Machine/PlanStore.lean ====
section
/-! DEFINITION. The Plan Store: the staged bytes read as a plan (12.3), the check in its stages (R8 to R11), the apply (R13 to
R18), a refused plan (R12), and the segment sequence of LOAD PLAN (R7, R182, R183). -/

namespace Sys2Proof.Machine

/-! ### The staged plan as bytes (12.3) -/

/-- A bay record as its bytes carry it. -/
structure RawBay where
  number : Nat
  zone   : Nat
  feeder : Nat
  kind   : Nat
  pmin   : Nat
  pmax   : Nat

/-- A feeder record as its bytes carry it. -/
structure RawFeeder where
  number   : Nat
  limit    : Nat
  quota    : Nat
  highMark : Nat
  lowMark  : Nat

/-- An allotment entry as its bytes carry it. -/
structure RawAllotment where
  leading   : Nat
  length    : Nat
  cls       : Nat
  firstBay  : Nat
  count     : Nat
  exclusive : Nat

/-- The site record as its bytes carry it. -/
structure RawSite where
  limit         : Nat
  mode          : Nat
  wHigh         : Nat
  wNormal       : Nat
  fleetPriority : Nat
  ratio         : Nat
  identifyTime  : Nat
  graceTime     : Nat
  walkInReserve : Nat
  defaultHold   : Nat
  defaultWait   : Nat
  defaultStay   : Nat
  timeout0      : Nat
  timeout1      : Nat
  timeout2      : Nat
  timeout3      : Nat

/-- A staged plan read by its layout; each zone is a pair of flags, closed and walk-in open. -/
structure RawPlan where
  length         : Nat
  site           : RawSite
  zones          : List (Nat × Nat)
  feederCount    : Nat
  feeders        : List RawFeeder
  bayCount       : Nat
  bays           : List RawBay
  allotmentCount : Nat
  allotments     : List RawAllotment

/-- The site record's 24 bytes (12.3). -/
def readSite (p : List Byte) : RawSite where
  limit         := fieldAt p 0 2
  mode          := fieldAt p 2 1
  wHigh         := fieldAt p 3 1
  wNormal       := fieldAt p 4 1
  fleetPriority := fieldAt p 5 1
  ratio         := fieldAt p 6 1
  identifyTime  := fieldAt p 7 2
  graceTime     := fieldAt p 9 2
  walkInReserve := fieldAt p 11 1
  defaultHold   := fieldAt p 12 2
  defaultWait   := fieldAt p 14 2
  defaultStay   := fieldAt p 16 4
  timeout0      := fieldAt p 20 1
  timeout1      := fieldAt p 21 1
  timeout2      := fieldAt p 22 1
  timeout3      := fieldAt p 23 1

/-- A feeder record's 9 bytes. -/
def readFeeder (p : List Byte) : RawFeeder :=
  ⟨fieldAt p 0 1, fieldAt p 1 2, fieldAt p 3 2, fieldAt p 5 2, fieldAt p 7 2⟩

/-- A bay record's 9 bytes. -/
def readBay (p : List Byte) : RawBay :=
  ⟨fieldAt p 0 2, fieldAt p 2 1, fieldAt p 3 1, fieldAt p 4 1, fieldAt p 5 2, fieldAt p 7 2⟩

/-- An allotment entry's 11 bytes. -/
def readAllotment (p : List Byte) : RawAllotment :=
  ⟨fieldAt p 0 5, fieldAt p 5 1, fieldAt p 6 1, fieldAt p 7 2, fieldAt p 9 1, fieldAt p 10 1⟩

/-- `n` records of `size` bytes each. -/
def readRecords (read : List Byte → α) (size : Nat) : Nat → List Byte → List α
  | 0, _ => []
  | n + 1, p => read p :: readRecords read size n (p.drop size)

/-- The staged bytes read by the layout of 12.3. -/
def readPlan (staged : List Byte) : RawPlan :=
  let f := fieldAt staged 40 1
  let b := fieldAt staged (41 + 9 * f) 2
  let a := fieldAt staged (43 + 9 * f + 9 * b) 1
  { length         := staged.length
    site           := readSite staged
    zones          := readRecords (fun p => (fieldAt p 0 1, fieldAt p 1 1)) 2 8 (staged.drop 24)
    feederCount    := f
    feeders        := readRecords readFeeder 9 f (staged.drop 41)
    bayCount       := b
    bays           := readRecords readBay 9 b (staged.drop (43 + 9 * f))
    allotmentCount := a
    allotments     := readRecords readAllotment 11 a (staged.drop (44 + 9 * f + 9 * b)) }

/-! ### Stage 1: structure and ranges (R9) -/

/-- Check 1. -/
def RawPlan.wholeFits (w : RawPlan) : Bool :=
  decide (w.feederCount ≤ 16) && decide (w.bayCount ≤ 512) && decide (w.allotmentCount ≤ 64) &&
    w.length == 44 + 9 * w.feederCount + 9 * w.bayCount + 11 * w.allotmentCount

/-- Check 2 (R2). -/
def RawSite.fits (x : RawSite) : Bool :=
  inRange 0 65535 x.limit && inRange 0 1 x.mode && inRange 0 15 x.wHigh && inRange 0 15 x.wNormal &&
  inRange 0 1 x.fleetPriority && inRange 0 3 x.ratio && inRange 10 600 x.identifyTime && inRange 60 3600 x.graceTime &&
  inRange 0 255 x.walkInReserve && inRange 60 7200 x.defaultHold && inRange 0 14400 x.defaultWait &&
  inRange 600 86400 x.defaultStay && inRange 1 20 x.timeout0 && inRange 1 20 x.timeout1 && inRange 1 20 x.timeout2 &&
  inRange 1 20 x.timeout3

/-- Check 3 (R3). -/
def zoneFits (z : Nat × Nat) : Bool := inRange 0 1 z.1 && inRange 0 1 z.2

/-- Check 4 (R4), against the feeder records before. -/
def RawFeeder.fits (earlier : List RawFeeder) (x : RawFeeder) : Bool :=
  inRange 0 15 x.number && earlier.all (fun y => y.number != x.number) && inRange 0 20000 x.limit && inRange 0 256 x.quota &&
  inRange 0 256 x.highMark && inRange 0 256 x.lowMark && decide (x.lowMark < x.highMark)

/-- Check 5: in QUOTA mode the quotas sum to at most 256. -/
def RawPlan.quotasFit (w : RawPlan) : Bool := w.site.mode == 0 || decide ((w.feeders.map (·.quota)).sum ≤ 256)

/-- Check 6 (R5), against the bay records before. -/
def RawBay.fits (feeders : List RawFeeder) (earlier : List RawBay) (x : RawBay) : Bool :=
  inRange 0 511 x.number && earlier.all (fun y => y.number != x.number) && inRange 0 7 x.zone &&
  feeders.any (fun y => y.number == x.feeder) && inRange 0 2 x.kind && inRange 10 500 x.pmin && inRange x.pmin 1500 x.pmax

/-- Check 7 (R6), against the entries before. -/
def RawAllotment.fits (bays : List RawBay) (earlier : List RawAllotment) (x : RawAllotment) : Bool :=
  inRange 8 40 x.length && x.leading % 2 ^ (40 - x.length) == 0 && inRange 0 2 x.cls && inRange 1 32 x.count &&
  inRange 0 1 x.exclusive && decide (x.firstBay + x.count - 1 ≤ 511) &&
  (List.range x.count).all (fun k => bays.any fun y => y.number == x.firstBay + k) &&
  earlier.all (fun y => y.leading != x.leading || y.length != x.length)

/-- The index of the first item that fails a check made against the items before it. -/
def firstFailing (fits : List α → α → Bool) : List α → List α → Option Nat
  | _, [] => none
  | earlier, x :: xs => if fits earlier x then firstFailing fits (earlier ++ [x]) xs else some earlier.length

/-- Stage 1: the number of the first failing check and the index of its first failing item (R9). That check 1 reports item 0 for a
plan of one or more bytes too is the model's choice (notes/assumptions/30.md). -/
def RawPlan.firstFault (w : RawPlan) : Option (Nat × Nat) :=
  if w.wholeFits = false then some (1, 0)
  else if w.site.fits = false then some (2, 0)
  else
    match firstFailing (fun _ => zoneFits) [] w.zones with
    | some i => some (3, i)
    | none =>
      match firstFailing RawFeeder.fits [] w.feeders with
      | some i => some (4, i)
      | none =>
        if w.quotasFit = false then some (5, 0)
        else
          match firstFailing (RawBay.fits w.feeders) [] w.bays with
          | some i => some (6, i)
          | none => (firstFailing (RawAllotment.fits w.bays) [] w.allotments).map fun i => (7, i)

/-! ### The plan the staged bytes stand for -/

def SharingMode.ofCode : Nat → SharingMode
  | 0 => .pooled | _ => .quota

def RatioSetting.ofCode : Nat → RatioSetting
  | 0 => .strict | 1 => .eightToOne | 2 => .fourToOne | _ => .twoToOne

def Priority.ofCode : Nat → Priority
  | 0 => .high | _ => .normal

def Kind.ofCode : Nat → Kind
  | 0 => .standard | 1 => .accessible | _ => .large

/-- A site record in range. -/
def RawSite.site (x : RawSite) : Site where
  limit         := x.limit
  mode          := SharingMode.ofCode x.mode
  wHigh         := x.wHigh
  wNormal       := x.wNormal
  fleetPriority := Priority.ofCode x.fleetPriority
  ratio         := RatioSetting.ofCode x.ratio
  identifyTime  := x.identifyTime
  graceTime     := x.graceTime
  walkInReserve := x.walkInReserve
  defaultHold   := x.defaultHold
  defaultWait   := x.defaultWait
  defaultStay   := x.defaultStay
  replyTimeouts := #v[x.timeout0, x.timeout1, x.timeout2, x.timeout3]

/-- A feeder record in range. -/
def RawFeeder.feeder (x : RawFeeder) : FeederPlan :=
  ⟨Fin.ofNat 16 x.number, x.limit, x.quota, x.highMark, x.lowMark⟩

/-- A bay record in range. -/
def RawBay.bay (x : RawBay) : BayPlan :=
  ⟨Fin.ofNat 512 x.number, Fin.ofNat 8 x.zone, Fin.ofNat 16 x.feeder, Kind.ofCode x.kind, x.pmin, x.pmax⟩

/-- An allotment entry in range. -/
def RawAllotment.allotment (x : RawAllotment) : Allotment :=
  ⟨BitVec.ofNat 40 x.leading, x.length, VehicleClass.ofCode x.cls, x.firstBay, x.count, x.exclusive != 0⟩

/-- The plan of a staged plan that has passed stage 1. -/
def RawPlan.plan (w : RawPlan) : Plan where
  site       := w.site.site
  zones      := Vector.ofFn fun i : Fin 8 => let z := w.zones.getD i.val (0, 0); ⟨z.1 != 0, z.2 != 0⟩
  feeders    := w.feeders.map (·.feeder)
  bays       := w.bays.map (·.bay)
  allotments := w.allotments.map (·.allotment)

/-! ### Stage 2: live conflict (R10) -/

/-- The record a plan gives a bay, if it plans it (R5). -/
def Plan.bay (p : Plan) (b : BayNo) : Option BayPlan := p.bays.find? (·.number == b)

/-- Whether two records of one bay differ in one of the five fields R10 compares. -/
def BayPlan.differs (x y : BayPlan) : Bool :=
  x.zone != y.zone || x.feeder != y.feeder || x.kind != y.kind || x.pmin != y.pmin || x.pmax != y.pmax

/-- What a staged plan does to a bay (R10). -/
inductive BayChange where
  | none | added | removed | changed
  deriving DecidableEq, Repr

/-- The class of a bay under a staged plan (R10). -/
def bayChange : Option BayPlan → Option BayPlan → BayChange
  | .none, .none => .none
  | .none, .some _ => .added
  | .some _, .none => .removed
  | .some x, .some y => if x.differs y then .changed else .none

/-- The class of bay `b` under plan `p` (R10). -/
def State.changeOf (s : State) (p : Plan) (b : BayNo) : BayChange := bayChange (s.bay b).place (p.bay b)

/-- A protected bay: neither FREE nor OUT_OF_SERVICE(OPERATOR or UNHEARD), or bound (R10). -/
def Bay.isProtected (x : Bay) : Bool :=
  x.bound.isSome ||
    !(x.state == .free || (x.state == .outOfService && (x.reason == some .operator || x.reason == some .unheard)))

/-- Whether bay `b` makes plan `p` PLAN_CONFLICT. -/
def State.conflicts (s : State) (p : Plan) (b : BayNo) : Bool :=
  (s.changeOf p b == .removed || s.changeOf p b == .changed) && (s.bay b).isProtected

/-! ### Stage 3: pledge (R11) -/

/-- Whether feeder `f` is defined by plan `p` with a limit below its present pledge. -/
def State.pledgeAbove (s : State) (p : Plan) (f : FeederNo) : Bool :=
  match p.feeders.find? (·.number == f) with
  | some x => decide (x.limit < (s.feeder f).pledge)
  | none => false

/-! ### The apply (R13) -/

/-- A removed bay (R14): the record, the grants and the unit as a bay that has never been planned, the stranded grant taken from
the X_f of the feeder it stood on, the orders queued for it gone, an exchange with it on the line marked as removed. -/
def State.removeBay (s : State) (b : BayNo) : State :=
  let old := (s.grant b).stranded
  let t := s.modFeederOf b fun f => { f with stranded := f.stranded - old }
  let u := ((t.modGrant b fun _ => {}).modUnit b fun _ => {}).modBay b fun _ => {}
  u.modLane (laneOf b) fun l =>
    { l with queue := l.queue.filter (fun e => e.bay != b),
             line := l.line.map fun x => if x.bay = b then { x with removed := true } else x }

/-- A changed bay (R16): the new record, a stranded grant counting from now on in the feeder it names. -/
def State.changeBay (s : State) (b : BayNo) (p : BayPlan) : State :=
  let held := (s.grant b).stranded
  let t := s.modFeederOf b fun f => { f with stranded := f.stranded - held }
  (t.modBay b fun x => { x with place := some p }).modFeeder p.feeder fun f => { f with stranded := f.stranded + held }

/-- An added bay (R15): OUT_OF_SERVICE(UNHEARD), its record, grants and unit fresh. -/
def State.addBay (s : State) (b : BayNo) (p : BayPlan) : State :=
  ((s.modGrant b fun _ => {}).modUnit b fun _ => {}).modBay b fun _ => ({ place := some p } : Bay).takenOut .unheard

/-- One bay settled under plan `p` (R13, steps 2 to 4, each of which reaches only bays of its own class). -/
def State.settleBay (p : Plan) (s : State) (b : BayNo) : State :=
  match s.changeOf p b, p.bay b with
  | .removed, _ => s.removeBay b
  | .changed, some x => s.changeBay b x
  | .added, some x => s.addBay b x
  | _, _ => s

/-- The allotment entry of each live record derived again, with no mark; the ratio counter returned to 0 if the ratio setting
differs from the old plan's (R17). -/
def State.rederiveAllotments (s : State) (old : Option Plan) (p : Plan) : State :=
  let same := match old with | some o => o.site.ratio == p.site.ratio | none => false
  { s with
    slots := s.slots.map fun x =>
      { x with record := x.record.map fun r => { r with allotment := (longestPrefix p.allotments r.credential).map (·.1) } },
    ratioCount := if same then s.ratioCount else 0 }

/-- The metered load of the bays a feeder has (R143). -/
def State.loadOf (s : State) (f : FeederNo) : Nat := ((allBays.filter (s.onFeeder f)).map fun b => (s.bay b).metered).sum

/-- A mark of a feeder: floor(F × fraction / 256) (R144). -/
def markOf (limit fraction : Nat) : Nat := limit * fraction / 256

/-- What the Load Monitor holds for a feeder under a plan record, if it has one (R16): trim state and step kept if it was
defined, else NORMAL and 0; nothing for an undefined feeder. -/
def newMonitor (record : Option FeederPlan) (load : Nat) (old : Option Monitor) : Option Monitor :=
  record.map fun x =>
    { load  := load
      high  := markOf x.limit x.highMark
      low   := markOf x.limit x.lowMark
      state := (old.map (·.state)).getD .normal
      step  := (old.map (·.step)).getD 0 }

/-- The Load Monitor takes up the new feeder records (R16). -/
def State.takeUpFeeders (s : State) (p : Plan) : State :=
  allFeeders.foldl (fun t f => t.modFeeder f fun x =>
    { x with monitor := newMonitor (p.feeders.find? (·.number == f)) (s.loadOf f) x.monitor }) s

/-- Every bay that is FREE offered, one at a time, in ascending bay number (R13 step 8, R45). -/
def State.offerFreeBays (s : State) : State :=
  allBays.foldl (fun t b => if (t.bay b).state = .free then t.offer b else t) s

/-- The apply, steps 1 to 8 (R13). -/
def State.applyPlan (s : State) (p : Plan) : State :=
  let t := allBays.foldl (State.settleBay p) { s with plan := some p }
  ((t.rederiveAllotments s.plan p).takeUpFeeders p).allocationRun.offerFreeBays

/-! ### The completion event (R8, R12, R13, R183) -/

/-- An owner's answer: the status and the body of its reply, without the FREE slot count. -/
structure Answer where
  status : Status
  body   : List Byte := []
  deriving DecidableEq, Repr

/-- The end of a completion event: the staged plan emptied and PLAN_APPLIED raised, applied or refused (R12, R13 step 9). -/
def State.endCompletion (s : State) : State := { s with staged := [] }.raise .planApplied

/-- How many bays a plan puts in a class (R13). -/
def State.countChanges (s : State) (p : Plan) (k : BayChange) : Nat := allBays.countP fun b => s.changeOf p b == k

/-- The Plan Store's completion event for a staged plan taken as complete with a segment count: the check and, if it passes, the
apply with its aspect orders, after which a lane that has its first planned bay starts to poll (R8, R13, R23, R171, R183). -/
def State.completePlan (s : State) (count : Nat) : State × Answer :=
  let w := readPlan s.staged
  match w.firstFault with
  | some (check, item) => (s.endCompletion, ⟨.planInvalid, le 1 count ++ le 1 check ++ le 2 item⟩)
  | none =>
    let p := w.plan
    match allBays.find? (s.conflicts p) with
    | some b => (s.endCompletion, ⟨.planConflict, le 1 count ++ le 2 b.val⟩)
    | none =>
      match allFeeders.find? (s.pledgeAbove p) with
      | some f => (s.endCompletion, ⟨.pledgeConflict, le 1 count ++ le 1 f.val⟩)
      | none =>
        ((State.aspectOrders s (s.applyPlan p).endCompletion).startIdleLanes,
          ⟨.ok, le 1 count ++ le 2 (s.countChanges p .added) ++ le 2 (s.countChanges p .removed) ++
            le 2 (s.countChanges p .changed)⟩)

/-! ### The segment sequence (R7, R182, R183) -/

/-- The open segment sequence set. -/
def State.setSequence (s : State) (q : Option Nat) : State := { s with port := { s.port with sequence := q } }

/-- Whether a further segment fits the open sequence of count `n` (R182). -/
def State.segmentFits (s : State) (n : Nat) (body : List Byte) : Bool :=
  decide (n < Config.maxSegments) && decide (s.staged.length + body.length ≤ Config.maxStagedBytes)

/-- A FIRST: a new sequence of count 1, the staged plan its body (R182). -/
def State.firstSegment (s : State) (body : List Byte) : State × Answer :=
  ({ s with staged := body }.setSequence (some 1), ⟨.ok, le 1 1⟩)

/-- A MIDDLE (R182). -/
def State.middleSegment (s : State) (body : List Byte) : State × Answer :=
  match s.port.sequence with
  | none => (s, ⟨.segmentOrder, []⟩)
  | some n =>
    if s.segmentFits n body then
      ({ s with staged := s.staged ++ body }.setSequence (some (n + 1)), ⟨.ok, le 1 (n + 1)⟩)
    else ({ s with staged := [] }.setSequence none, ⟨.planTooLarge, le 1 n⟩)

/-- A LAST: appended, and the staged plan handed over as complete (R182, R183). -/
def State.lastSegment (s : State) (body : List Byte) : State × Answer :=
  match s.port.sequence with
  | none => (s, ⟨.segmentOrder, []⟩)
  | some n =>
    if s.segmentFits n body then ({ s with staged := s.staged ++ body }.setSequence none).completePlan (n + 1)
    else ({ s with staged := [] }.setSequence none, ⟨.planTooLarge, le 1 n⟩)

/-- An ONLY: the staged plan is its body, handed over as a sequence of count 1 (R182, R183). -/
def State.onlySegment (s : State) (body : List Byte) : State × Answer :=
  ({ s with staged := body }.setSequence none).completePlan 1

end Sys2Proof.Machine
end

