-- ==== Sys2Proof/Machine/Replies.lean ====
section
/-! DEFINITION. The records the query replies carry, byte by byte (12.4), and the resolution of tickets (R49). -/

namespace Sys2Proof.Machine

/-! ### Tickets (R49) -/

/-- What a ticket resolves to. -/
inductive Resolution where
  | live (i : SlotNo) (r : Reservation)
  | retired (o : Ending)
  | stale
  deriving DecidableEq, Repr

/-- The resolution of a ticket against the slot it names (R49). -/
def State.resolve (s : State) (t : BitVec 16) : Resolution :=
  let x := s.slot (ticketSlot t)
  match x.record, x.lastOutcome with
  | some r, _ => if ticketGeneration t = x.generation then .live (ticketSlot t) r else .stale
  | none, some o => if ticketGeneration t = priorGeneration x.generation then .retired o else .stale
  | none, none => .stale

/-- The ticket of the live record of slot `i` (R49). -/
def State.ticket (s : State) (i : SlotNo) : Nat := ticketOf i (s.slot i).generation

/-- The ticket of the record last retired from slot `i` (R49). -/
def State.retiredTicket (s : State) (i : SlotNo) : Nat := ticketOf i (priorGeneration (s.slot i).generation)

/-! ### Fields (12.1, 12.4) -/

/-- A flag as bit `n` of a flags byte. -/
def bitIf (n : Nat) (x : Bool) : Nat := if x then 2 ^ n else 0

/-- A bay field: 0xFFFF for none (12.4). -/
def bayField (b : Option BayNo) : List Byte := le 2 ((b.map (·.val)).getD 0xFFFF)

/-- A value that is 0 while it is absent (R194). -/
def valueOr0 (n : Nat) (v : Option Nat) : List Byte := le n (v.getD 0)

/-- The list a record waits in and its position from the head, 0 and 0 for none (R67). -/
def State.listPlace (s : State) (i : SlotNo) : Nat × Nat :=
  if s.highList.contains i then (1, s.highList.idxOf i + 1)
  else if s.normalList.contains i then (2, s.normalList.idxOf i + 1)
  else (0, 0)

/-- The reservation record of 49 bytes (12.4). -/
def State.reservationRecord (s : State) (i : SlotNo) (r : Reservation) : List Byte :=
  let d := s.deadlineOf (.slot i)
  let place := s.listPlace i
  le 2 (s.ticket i) ++ le 1 r.state.code ++ le 5 r.credential.toNat ++ le 1 r.cls.code ++ le 1 r.priority.code ++
  [flagByte r.large] ++ le 1 r.zoneMask.toNat ++ le 2 r.hold ++ le 2 r.wait ++ le 4 r.stay ++ valueOr0 2 r.cap ++
  bayField r.bay ++ le 1 (r.allotment.getD 0xFF) ++ le 6 r.seq ++
  le 1 (bitIf 0 r.sessionDone + bitIf 1 r.stayExhausted + bitIf 2 (s.slot i).mark + bitIf 3 r.arrivedAt.isSome +
    bitIf 4 r.session.isSome) ++
  valueOr0 4 r.arrivedAt ++ valueOr0 4 r.session ++ le 1 r.migrations ++
  le 1 ((d.map (·.kind.code)).getD 0) ++ valueOr0 4 (d.map (·.due)) ++ le 1 place.1 ++ le 2 place.2

/-- The plan data of a bay, 0 in each field while it is UNPLANNED (R40). -/
def placeBytes : Option BayPlan → List Byte
  | some p => le 1 p.zone.val ++ le 1 p.feeder.val ++ le 1 p.kind.code ++ le 2 p.pmin ++ le 2 p.pmax
  | none => le 7 0

/-- The bay record of 39 bytes (12.4). -/
def State.bayRecord (s : State) (b : BayNo) : List Byte :=
  let x := s.bay b
  let g := s.grant b
  let u := s.unit b
  le 2 b.val ++ placeBytes x.place ++ le 1 x.state.code ++ le 1 ((x.reason.map (·.code)).getD 0) ++
  le 1 (bitIf 0 x.returnRequested + bitIf 1 x.keptHold + bitIf 2 x.occupancyHeld + bitIf 3 x.stop + bitIf 4 x.starved +
    bitIf 5 x.bound.isSome + bitIf 6 x.credential.isSome) ++
  valueOr0 2 (x.bound.map s.ticket) ++ le 1 x.occupancy.code ++ le 1 x.plug.code ++
  valueOr0 5 (x.credential.map (·.toNat)) ++ le 2 x.metered ++ le 2 x.demand ++ le 1 x.aspect.code ++ le 1 u.link.code ++
  le 1 u.countdown ++ le 2 g.target ++ le 2 g.acknowledged ++ valueOr0 2 (g.outstanding.map (·.value)) ++
  valueOr0 2 (g.pending.map (·.value)) ++ le 2 g.stranded ++
  le 1 (bitIf 0 g.outstanding.isSome + bitIf 1 g.pending.isSome)

/-- How many bays of feeder `f` meet a test. -/
def State.countOn (s : State) (f : FeederNo) (p : BayNo → Bool) : Nat := allBays.countP fun b => s.onFeeder f b && p b

/-- Whether bay `b` holds an outstanding decrease order (R132). -/
def State.decreasing (s : State) (b : BayNo) : Bool :=
  match (s.grant b).outstanding with
  | some o => o.decrease
  | none => false

/-- The feeder record of 32 bytes (12.4), of a defined feeder (R139). -/
def State.feederRecord (s : State) (f : FeederNo) (p : FeederPlan) : List Byte :=
  let x := s.feeder f
  le 1 f.val ++ le 2 p.limit ++ le 2 s.effective ++ le 2 x.want ++ le 2 x.budget ++ le 2 x.trimmedBudget ++
  le 2 x.sessionBudget ++ le 2 x.pledge ++ le 4 x.stranded ++ le 4 ((x.monitor.map (·.load)).getD 0) ++ le 1 x.trimStep ++
  le 2 (s.countOn f s.charging) ++ le 2 (s.countOn f fun b => s.charging b && (s.bay b).starved) ++
  le 2 (s.countOn f s.decreasing) ++ le 2 (s.countOn f fun b => (s.grant b).heldBack.isSome)

/-- An entry of LIST CHANGES (R57, 12.2): a FREE slot gives its retired ticket and outcome, a live one its record's ticket, state
and bay. A FREE slot's bay is sent as none (notes/assumptions/17.md). -/
def State.changeEntry (s : State) (i : SlotNo) : List Byte :=
  match s.record i with
  | some r => le 2 (s.ticket i) ++ [flagByte false] ++ le 1 r.state.code ++ bayField r.bay
  | none =>
    le 2 (s.retiredTicket i) ++ [flagByte true] ++ le 1 (((s.slot i).lastOutcome.map (·.code)).getD 0) ++ bayField none

end Sys2Proof.Machine
end

