-- ==== Sys2Proof/Machine/Port.lean ====
section
/-! DEFINITION. The Booking Port: its transactions (R173 to R176), the checks of a taken frame (R177 to R179, R184), the frame of
a reply (R177), and how an owner's event is wrapped by the port (R179, R180). -/

namespace Sys2Proof.Machine

/-! ### Replies (R177, R180, R181) -/

/-- A reply made ready: the port enters REPLY, the reply buffer holding the frame, and keeps nothing of the request (R180,
R181). -/
def State.reply (s : State) (code : Byte) (status : Status) (body : List Byte) : State :=
  { s with port := { s.port with
      state := .reply, frame := [], request := none, reply := some (portFrame (replyCode code) status.code body) } }

/-- The FREE slot count that the replies to reservation requests carry (R177, 12.2). -/
def State.freeField (s : State) (code : Nat) : List Byte := if isReservationCode code then le 2 s.freeCount else []

/-- An owner's answer made the reply: behind the count for a reservation request; an empty body with SEGMENT_ORDER (R177,
R180). -/
def State.replyAnswer (s : State) (code : Nat) (a : Answer) : State :=
  s.reply (BitVec.ofNat 8 code) a.status (s.freeField code ++ a.body)

/-- A request taken by its owner, which makes the reply ready at the end of its event (R180). The owner has the request the port
has handed it and no other: where the port holds none, or another, nothing is taken (notes/assumptions/2.md). -/
def State.serve (s : State) (c : Instr) (event : State → State × Answer) : State :=
  if s.port.request = some c then
    let e := event s
    e.1.replyAnswer ((requestCode c).getD 0) e.2
  else s

/-- An owner's event with the aspect orders its end hands to the lanes (R23). -/
def settled (event : State → State × Answer) (s : State) : State × Answer :=
  let e := event s
  (State.aspectOrders s e.1, e.2)

/-! ### The checks of a taken frame (R178, R179) -/

/-- The verdict on a frame: a request to hand to its owner, or the status and body of the reply that answers it at once. -/
inductive Verdict where
  | request (c : Instr)
  | answer (status : Status) (body : List Byte)
  deriving DecidableEq, Repr

/-- Checks 7 to 9 on a frame of a known code and an allowed part, and the request it carries (R178, R179). -/
def State.judgeBody (s : State) (code part : Nat) (body : List Byte) : Verdict :=
  match formLength code, readRequest code part body with
  | some form, some c =>
    let fitsForm := match form with | some n => body.length == n | none => true
    if fitsForm = false then .answer .badLength []
    else if badBodyField code body c ≠ 0 then .answer .badParameter (le 1 (badBodyField code body c) ++ s.freeField code)
    else if needsPlan c && s.plan.isNone then .answer .noPlan (s.freeField code)
    else .request c
  | _, _ => .answer .unknownRequest []

/-- Checks 2 to 9 in their order (R178). Check 1, the size, is the transaction's business. -/
def State.judgeFrame (s : State) (frame : List Byte) : Verdict :=
  let code := fieldAt frame 0 1
  let part := fieldAt frame 1 1
  let length := fieldAt frame 2 2
  let body := (frame.drop 4).take length
  if byteSum frame ≠ 0 then .answer .badChecksum []
  else if frame.length < 5 ∨ Config.maxBodyBytes < length ∨ frame.length ≠ length + 5 then .answer .badLength []
  else if (formLength code).isNone then .answer .unknownRequest []
  else if 3 < part then .answer .badParameter (le 1 0 ++ s.freeField code)
  else if code ≠ 0x30 ∧ part ≠ 0 then .answer .segmentOrder []
  else s.judgeBody code part body

/-! ### Transactions (R173 to R176) -/

/-- The port state a transaction is judged by: the state when SEL fell (R173; notes/assumptions/3.md). -/
def State.judgedState (s : State) (begunBusy : Bool) : PortState := if begunBusy then .busy else s.port.state

/-- The bytes shifted out recorded (notes/assumptions/6.md). -/
def State.shiftOut (s : State) (bytes : List Byte) : State := { s with port := { s.port with shifted := bytes } }

/-- A frame taken: the waiting reply is gone, the bytes stand in the frame buffer, the port is BUSY (R175). -/
def State.takeFrame (s : State) (bytes : List Byte) : State :=
  { s with port := { s.port with
      state := .busy, reply := none, request := none, frame := bytes.take Config.frameBufferBytes } }

/-- A request handed to its owner: the port holds it, BUSY, until the reply is ready (R180). -/
def State.handOver (s : State) (c : Instr) : State := { s with port := { s.port with request := some c } }

/-- The checks made on a frame just taken: a request is handed to its owner, any other verdict is the reply (R178, R180;
notes/assumptions/4.md). -/
def State.checkFrame (s : State) (bytes : List Byte) : State :=
  let code := BitVec.ofNat 8 (fieldAt bytes 0 1)
  if Config.frameBufferBytes < bytes.length then (s.bump .framesDiscarded).reply code .badLength []
  else
    match s.judgeFrame bytes with
    | .request c => s.handOver c
    | .answer status body => s.reply code status body

/-- A write transaction (R175): taken in READY or REPLY, ignored and counted in BUSY. -/
def execWriteTransaction (begunBusy : Bool) (bytes : List Byte) (s : State) : Host.Outcome State Fault Refusal :=
  let opened := s.judgedState begunBusy
  let t := s.shiftOut (opened.code :: List.replicate bytes.length 0)
  match opened with
  | .busy => .next (t.bump .framesDiscarded)
  | .ready | .reply => .next ((t.takeFrame bytes).checkFrame bytes)

/-- A read transaction (R176): in REPLY the reply follows the status byte, and a reply read in full leaves the buffer empty. -/
def execReadTransaction (begunBusy : Bool) (count : Nat) (s : State) : Host.Outcome State Fault Refusal :=
  let opened := s.judgedState begunBusy
  match opened, s.port.reply with
  | .reply, some frame =>
    let t := s.shiftOut (opened.code :: (frame ++ List.replicate (count - frame.length) 0).take count)
    if frame.length ≤ count then .next { t with port := { t.port with state := .ready, reply := none } } else .next t
  | _, _ => .next (s.shiftOut (opened.code :: List.replicate count 0))

/-- A transaction with another command byte, or none whole: nothing changes but the bytes shifted out (R173). -/
def execInvalidCommandTransaction (begunBusy : Bool) (command : Option Byte) (count : Nat) (s : State) :
    Host.Outcome State Fault Refusal :=
  match command with
  | some _ => .next (s.shiftOut ((s.judgedState begunBusy).code :: List.replicate count 0))
  | none => .next (s.shiftOut [])

end Sys2Proof.Machine
end

