-- ==== Sys2Proof/Machine/BayRequests.lean ====
section
/-! DEFINITION. The requests that name a bay: QUERY BAY (R40), SET BAY SERVICE (R41, R42) and CLEAR STRANDED (R43); and the loads
of a bay plan (R182). -/

namespace Sys2Proof.Machine

/-- An owner's event at the bay a 16-bit field names; a number beyond 511 has not passed check 8 and names none. -/
def atBay (n : BitVec 16) (event : BayNo → State → State × Answer) (s : State) : State × Answer :=
  match bayNo? n with
  | some b => event b s
  | none => (s, ⟨.wrongState, []⟩)

/-- QUERY BAY (R40). -/
def execQueryBay (n : BitVec 16) (s : State) : Host.Outcome State Fault Refusal :=
  .next (s.serve (.queryBay n) (atBay n fun b t => (t, ⟨.ok, t.bayRecord b⟩)))

/-! ### SET BAY SERVICE (R41, R42) -/

/-- A bay already OUT_OF_SERVICE taken over by the operator: reason OPERATOR, return requested cleared, a session kept under
DETECTOR_FAULT ended with its run (R41). -/
def State.takeOver (s : State) (b : BayNo) : State :=
  let t := (s.takeOut b .operator).modBay b fun x => { x with returnRequested := false }
  takeRun (t.endSession b true true, s.charging b)

/-- SET BAY SERVICE OUT at a bay, by its state (R41). -/
def State.serviceOut (b : BayNo) (s : State) : State × Answer :=
  match (s.bay b).state with
  | .free => (s.takeOut b .operator, ⟨.ok, []⟩)
  | .held => ((s.takeOut b .operator).rehomeHeldAt b, ⟨.ok, []⟩)
  | .outOfService => (s.takeOver b, ⟨.ok, []⟩)
  | .unplanned | .identifying | .blocked | .engaged | .charging | .overstay => (s, ⟨.wrongState, []⟩)

/-- SET BAY SERVICE with direction OUT (R41). -/
def execSetBayServiceOut (n : BitVec 16) (s : State) : Host.Outcome State Fault Refusal :=
  .next (s.serve (.setBayServiceOut n) (settled (atBay n State.serviceOut)))

/-- Whether a bay takes SET BAY SERVICE IN: OUT_OF_SERVICE for a reason the operator can answer for (R42). -/
def Bay.mayReturn (x : Bay) : Bool :=
  x.state == .outOfService &&
    (x.reason == some .operator || x.reason == some .postFault || x.reason == some .detectorFault)

/-- SET BAY SERVICE IN at a bay (R42). -/
def State.serviceIn (b : BayNo) (s : State) : State × Answer :=
  if (s.bay b).mayReturn then (s.modBay b fun x => { x with returnRequested := true }, ⟨.ok, []⟩)
  else (s, ⟨.wrongState, []⟩)

/-- SET BAY SERVICE with direction IN (R42). -/
def execSetBayServiceIn (n : BitVec 16) (s : State) : Host.Outcome State Fault Refusal :=
  .next (s.serve (.setBayServiceIn n) (atBay n State.serviceIn))

/-! ### CLEAR STRANDED (R43) -/

/-- Whether a bay is OUT_OF_SERVICE for reason `r`. -/
def Bay.outFor (x : Bay) (r : Reason) : Bool := x.state == .outOfService && x.reason == some r

/-- Whether a bay takes CLEAR STRANDED. -/
def State.mayClearStranded (s : State) (b : BayNo) : Bool :=
  (s.bay b).outFor .linkLost || (s.bay b).outFor .postFault || ((s.bay b).place.isSome && decide (0 < (s.grant b).stranded))

/-- CLEAR STRANDED at a bay: the stranded grant cleared, a lost unit's metered power set to 0, a run (R43, R143). -/
def State.clearStranded (b : BayNo) (s : State) : State × Answer :=
  if s.mayClearStranded b then
    let t := s.clearStrandedGrant b
    let u := if (s.bay b).outFor .linkLost then t.meter b 0 else t
    (u.allocationRun, ⟨.ok, []⟩)
  else (s, ⟨.wrongState, []⟩)

/-- CLEAR STRANDED (R43). -/
def execClearStranded (n : BitVec 16) (s : State) : Host.Outcome State Fault Refusal :=
  .next (s.serve (.clearStranded n) (settled (atBay n State.clearStranded)))

/-! ### LOAD PLAN (R182, R183) -/

/-- LOAD PLAN, part FIRST. -/
def execLoadPlanFirst (body : List Byte) (s : State) : Host.Outcome State Fault Refusal :=
  .next (s.serve (.loadPlanFirst body) fun t => t.firstSegment body)

/-- LOAD PLAN, part MIDDLE. -/
def execLoadPlanMiddle (body : List Byte) (s : State) : Host.Outcome State Fault Refusal :=
  .next (s.serve (.loadPlanMiddle body) fun t => t.middleSegment body)

/-- LOAD PLAN, part LAST. -/
def execLoadPlanLast (body : List Byte) (s : State) : Host.Outcome State Fault Refusal :=
  .next (s.serve (.loadPlanLast body) fun t => t.lastSegment body)

/-- LOAD PLAN, part ONLY. -/
def execLoadPlanOnly (body : List Byte) (s : State) : Host.Outcome State Fault Refusal :=
  .next (s.serve (.loadPlanOnly body) fun t => t.onlySegment body)

end Sys2Proof.Machine
end

