-- ==== Sys2Proof/Machine/Expiries.lean ====
section
/-! DEFINITION. Expiries: what each kind does at its owner (R37, R38, R69 to R71, R150, R117), the expiry pass that follows an
advance of the clock (R116, R118), and the meanings of SEC_PULSE and of the six expiry commands. -/

namespace Sys2Proof.Machine

/-! ### The six expiries, the entry already out of the list (R117)

An expiry finds its owner in the state that inserted the entry; in a state no run reaches it does nothing
(notes/assumptions/20.md). -/

/-- HOLD_END: the record is retired NO_SHOW, its bay freed and offered (R69). -/
def State.holdExpires (s : State) (i : SlotNo) : State :=
  match s.record i with
  | none => s
  | some r =>
    match r.state with
    | .held =>
      let t := (s.retire i .noShow).bump .noShows
      match r.bay with
      | some b => t.freeAndOffer b
      | none => t
    | .waiting | .engaged | .charging | .overstay => s

/-- WAIT_END: the record is retired WAIT_EXPIRED (R70). -/
def State.waitExpires (s : State) (i : SlotNo) : State :=
  match s.record i with
  | none => s
  | some r =>
    match r.state with
    | .waiting => (s.retire i .waitExpired).bump .waitExpiries
    | .held | .engaged | .charging | .overstay => s

/-- IDENTIFY_END: the bay becomes BLOCKED, BAY_ALERT is raised, a kept hold is re-homed (R37). -/
def State.identifyExpires (s : State) (b : BayNo) : State :=
  match (s.bay b).state with
  | .identifying =>
    let t := (s.enter b .blocked).raise .bayAlert
    if (s.bay b).keptHold then (t.rehomeHeldAt b).modBay b fun x => { x with keptHold := false } else t
  | .unplanned | .free | .held | .blocked | .engaged | .charging | .overstay | .outOfService => s

/-- GRACE_END: bay and record become OVERSTAY, the record's STAY_END is removed (R38). -/
def State.graceExpires (s : State) (b : BayNo) : State :=
  match (s.bay b).state with
  | .engaged =>
    let t := (s.enter b .overstay).bump .overstays
    match (s.bay b).bound with
    | some i => ((t.modRecord i fun r => { r with state := .overstay }).dropDeadline (.slot i)).setMark i
    | none => t
  | .unplanned | .free | .held | .identifying | .blocked | .charging | .overstay | .outOfService => s

/-- CURTAIL_END: C becomes 0, CURTAIL_ENDED is raised, a run is taken (R150). -/
def State.curtailExpires (s : State) : State :=
  ({ s with curtailment := 0 }.raise .curtailEnded).allocationRun

/-- An expired entry handed to its owner's block (R117). -/
def State.expire (s : State) (d : Deadline) : State :=
  match d.kind, d.owner with
  | .holdEnd, .slot i => s.holdExpires i
  | .waitEnd, .slot i => s.waitExpires i
  | .stayEnd, .slot i => s.stayExpires i true
  | .identifyEnd, .bay b => s.identifyExpires b
  | .graceEnd, .bay b => s.graceExpires b
  | .curtailEnd, .curtailment => s.curtailExpires
  | _, _ => s

/-! ### The expiry pass (R116) -/

/-- The expiry pass: while the head is due at or below the reading it leaves the list and expires. Answers the state and the
number of expiries taken. -/
def State.expiryPass : Nat → State → State × Nat
  | 0, s => (s, 0)
  | fuel + 1, s =>
    match s.deadlines with
    | [] => (s, 0)
    | d :: rest =>
      if d.due ≤ s.clock then
        let (t, n) := State.expiryPass fuel (({ s with deadlines := rest }).expire d)
        (t, n + 1)
      else (s, 0)

/-- A bound no pass reaches. Below saturation a pass takes at most the entries it finds, since every duration is at least a
second (R114). At saturation a chain ends because each HOLD_END and WAIT_END retires a record, each STAY_END exhausts one, and
each IDENTIFY_END and GRACE_END is a bay's last (R118): at most 1024 + 1024 + 512 + 512 + 1 (notes/assumptions/9.md). -/
def State.passFuel (s : State) : Nat := s.deadlines.length + 4096

/-- The clock brought to a reading, with the expiry pass against it (R110, R111, R116). -/
def State.advanceClock (s : State) (reading : Nat) : State × Nat :=
  State.expiryPass s.passFuel { s with clock := reading }

/-! ### The meanings -/

/-- SEC_PULSE: the clock rises by one, saturating, and the pass is taken (R110). -/
def execSecPulse (s : State) : Host.Outcome State Fault Refusal :=
  .next (State.aspectOrders s (s.advanceClock (satAdd Config.max32 s.clock 1)).1)

/-- An owner's entry of a kind, if it stands in the list, expires by itself; with no such entry nothing happens
(notes/assumptions/8.md). -/
def State.expireEntry (s : State) (k : DeadlineKind) (o : Owner) : State :=
  match s.deadlineOf o with
  | some d => if d.kind = k then State.aspectOrders s ((s.dropDeadline o).expire d) else s
  | none => s

/-- HOLD_END of a slot (R69). -/
def execHoldEnd (i : SlotNo) (s : State) : Host.Outcome State Fault Refusal := .next (s.expireEntry .holdEnd (.slot i))

/-- WAIT_END of a slot (R70). -/
def execWaitEnd (i : SlotNo) (s : State) : Host.Outcome State Fault Refusal := .next (s.expireEntry .waitEnd (.slot i))

/-- STAY_END of a slot (R71). -/
def execStayEnd (i : SlotNo) (s : State) : Host.Outcome State Fault Refusal := .next (s.expireEntry .stayEnd (.slot i))

/-- IDENTIFY_END of a bay (R37). -/
def execIdentifyEnd (b : BayNo) (s : State) : Host.Outcome State Fault Refusal := .next (s.expireEntry .identifyEnd (.bay b))

/-- GRACE_END of a bay (R38). -/
def execGraceEnd (b : BayNo) (s : State) : Host.Outcome State Fault Refusal := .next (s.expireEntry .graceEnd (.bay b))

/-- CURTAIL_END (R150). -/
def execCurtailEnd (s : State) : Host.Outcome State Fault Refusal := .next (s.expireEntry .curtailEnd .curtailment)

end Sys2Proof.Machine
end

