-- ==== Sys2Proof/Machine/Bookings.lean ====
section
/-! DEFINITION. The reservation requests (R57 to R68): BOOK, AMEND, CANCEL, RELEASE, QUERY RESERVATION, FIND CREDENTIAL and LIST
CHANGES. -/

namespace Sys2Proof.Machine

/-! ### BOOK (R58 to R60) -/

/-- A refusal of BOOK by the Reservation Table: BOOKINGS_REFUSED counted, nothing created (R58). -/
def State.refuseBooking (s : State) (status : Status) (body : List Byte) : State × Answer :=
  (s.bump .bookingsRefused, ⟨status, body⟩)

/-- The record a BOOK would create: the longest matching allotment entry gives its number and its class (R48, R58). -/
def State.wouldBe (s : State) (q : BookReq) : NewRecord :=
  let entry := longestPrefix s.allotments q.credential
  { credential := q.credential
    cls        := match entry with | some (_, a) => a.cls | none => VehicleClass.ofCode q.cls.toNat
    large      := q.large != 0
    zoneMask   := q.zoneMask
    hold       := q.hold.toNat
    wait       := q.wait.toNat
    stay       := q.stay.toNat
    cap        := if q.capPresent = 0 then none else some q.cap.toNat
    allotment  := entry.map (·.1) }

/-- The reply of a BOOK that has created the record of slot `i`: BOOKINGS_ACCEPTED counted, the record answered (R58, 12.2). -/
def State.acceptBooking (s : State) (i : SlotNo) : State × Answer :=
  let t := s.bump .bookingsAccepted
  (t, ⟨.ok, match t.record i with | some r => t.reservationRecord i r | none => []⟩)

/-- The record created HELD at bay `b` (R59). -/
def State.bookAt (s : State) (n : NewRecord) (b : BayNo) : State × Answer :=
  match s.create n with
  | some (i, t) => (t.holdAt i b n.hold).acceptBooking i
  | none => s.refuseBooking .tableFull []

/-- The record created WAITING (R60). -/
def State.bookWaiting (s : State) (n : NewRecord) : State × Answer :=
  match s.create n with
  | some (i, t) => (t.startWaiting i n.wait).acceptBooking i
  | none => s.refuseBooking .tableFull []

/-- BOOK with pinned bay `b` (R59). -/
def State.bookPinned (s : State) (n : NewRecord) (b : BayNo) : State × Answer :=
  if s.pinTest n.claim b then s.bookAt n b
  else s.refuseBooking .bayTaken (le 1 (s.bay b).state.code ++ le 1 (((s.bay b).reason.map (·.code)).getD 0))

/-- BOOK without a pinned bay (R60). -/
def State.bookAnywhere (s : State) (n : NewRecord) : State × Answer :=
  match s.select n.claim with
  | some b => s.bookAt n b
  | none => if 0 < n.wait then s.bookWaiting n else s.refuseBooking .noBay []

/-- BOOK at the Reservation Table (R58). A pin beyond 511 has not passed check 8. -/
def State.book (s : State) (q : BookReq) : State × Answer :=
  if s.freeSlots.isEmpty then s.refuseBooking .tableFull []
  else
    match s.findLive q.credential with
    | some i => s.refuseBooking .credentialInUse (le 2 (s.ticket i))
    | none =>
      if q.pinPresent = 0 then s.bookAnywhere (s.wouldBe q)
      else
        match bayNo? q.pin with
        | some b => s.bookPinned (s.wouldBe q) b
        | none => s.refuseBooking .bayTaken (le 2 0)

/-- BOOK (R58). -/
def execBook (q : BookReq) (s : State) : Host.Outcome State Fault Refusal :=
  .next (s.serve (.book q) (settled fun t => t.book q))

/-! ### AMEND (R61 to R64) -/

/-- Whether every field an AMEND carries is allowed in a record's state (R61). -/
def amendAllowed (q : AmendReq) : ResState → Bool
  | .waiting => q.holdPresent == 0 && q.stayPresent == 0
  | .held => q.stayPresent == 0
  | .engaged | .charging => q.holdPresent == 0 && q.maskPresent == 0
  | .overstay => q.holdPresent == 0 && q.stayPresent == 0 && q.maskPresent == 0

/-- Whether bay `y` lies inside a zone mask (R64). -/
def State.insideMask (s : State) (mask : ZoneMask) (y : BayNo) : Bool :=
  match (s.bay y).place with
  | some p => mask.getLsbD p.zone.val
  | none => false

/-- The bay a new zone mask takes a HELD record from, if any (R64). -/
def State.leavesBay (s : State) (q : AmendReq) (r : Reservation) : Option BayNo :=
  if q.maskPresent = 0 ∨ r.state ≠ .held then none
  else
    match r.bay with
    | some y => if s.insideMask q.mask y then none else some y
    | none => none

/-- The bay selection finds for a record with a new zone mask, the record treated as unbound (R64). -/
def State.selectMasked (s : State) (r : Reservation) (mask : ZoneMask) : Option BayNo :=
  s.select { r.claim with zoneMask := mask, leaving := r.bay }

/-- New hold seconds: a HOLD_END the record owns is restarted (R62). -/
def State.amendHold (s : State) (i : SlotNo) (hold : Nat) : State :=
  let t := s.modRecord i fun r => { r with hold := hold }
  match s.deadlineOf (.slot i) with
  | some d => if d.kind = .holdEnd then t.startDeadline .holdEnd (.slot i) hold else t
  | none => t

/-- A new stay limit, counted from arrived at: STAY_END inserted at the new end, or taken within the event (R62). -/
def State.amendStay (s : State) (i : SlotNo) (r : Reservation) (stay : Nat) : State :=
  let t := (s.modRecord i fun x => { x with stay := stay, stayExhausted := false }).dropDeadline (.slot i)
  let stop := satAdd Config.max32 (r.arrivedAt.getD 0) stay
  if s.clock < stop then t.setDeadline .stayEnd (.slot i) stop else t.stayExpires i false

/-- A new demand cap or its removal, with an allocation run for a CHARGING record (R63). -/
def State.amendCap (s : State) (i : SlotNo) (cap : Option Nat) : State :=
  let t := s.modRecord i fun x => { x with cap := cap }
  match s.record i with
  | some r => if r.state = .charging then t.allocationRun else t
  | none => t

/-- A new zone mask at a WAITING record (R64). -/
def State.amendMaskWaiting (s : State) (i : SlotNo) (r : Reservation) (mask : ZoneMask) : State :=
  let t := s.modRecord i fun x => { x with zoneMask := mask }
  match s.selectMasked r mask with
  | some b => ((t.leaveLists i).dropDeadline (.slot i)).holdAt i b r.hold
  | none => t

/-- A new zone mask at a HELD record whose bay `y` lies outside it (R64). -/
def State.amendMaskMoving (s : State) (i : SlotNo) (r : Reservation) (mask : ZoneMask) (y : BayNo) : State :=
  let t := ((s.modRecord i fun x => { x with zoneMask := mask }).unbind i).dropDeadline (.slot i)
  let u := match s.selectMasked r mask with
    | some b => t.holdAt i b r.hold
    | none => t.startWaiting i r.wait
  u.settleLeftBay y (s.bay y).state

/-- A new zone mask (R64). -/
def State.amendMask (s : State) (i : SlotNo) (r : Reservation) (q : AmendReq) : State :=
  match r.state, s.leavesBay q r with
  | .waiting, _ => s.amendMaskWaiting i r q.mask
  | _, some y => s.amendMaskMoving i r q.mask y
  | _, none => s.modRecord i fun x => { x with zoneMask := q.mask }

/-- The record of slot `i` as it now stands, or the one it was. -/
def State.recordNow (s : State) (i : SlotNo) (r : Reservation) : Reservation := (s.record i).getD r

/-- Every present field of an AMEND applied, in the order hold, stay, cap, mask (R61). -/
def State.applyAmend (s : State) (q : AmendReq) (i : SlotNo) (r : Reservation) : State :=
  let s1 := if q.holdPresent = 0 then s else s.amendHold i q.hold.toNat
  let s2 := if q.stayPresent = 0 then s1 else s1.amendStay i r q.stay.toNat
  let s3 := if q.capAction = 0 then s2 else s2.amendCap i (if q.capAction = 1 then some q.cap.toNat else none)
  if q.maskPresent = 0 then s3 else s3.amendMask i (s3.recordNow i r) q

/-- Whether a new zone mask would unbind the record with nothing to replace the bay (R61, R64). -/
def State.maskStrands (s : State) (q : AmendReq) (r : Reservation) : Bool :=
  (s.leavesBay q r).isSome && (s.selectMasked r q.mask).isNone && r.wait == 0

/-- AMEND at the Reservation Table (R61). -/
def State.amend (s : State) (q : AmendReq) : State × Answer :=
  match s.resolve q.ticket with
  | .live i r =>
    if amendAllowed q r.state = false then (s, ⟨.wrongState, []⟩)
    else if s.maskStrands q r then (s, ⟨.noBay, []⟩)
    else
      let t := s.applyAmend q i r
      (t, ⟨.ok, t.reservationRecord i (t.recordNow i r)⟩)
  | .retired _ | .stale => (s, ⟨.staleTicket, []⟩)

/-- AMEND (R61). -/
def execAmend (q : AmendReq) (s : State) : Host.Outcome State Fault Refusal :=
  .next (s.serve (.amend q) (settled fun t => t.amend q))

/-! ### CANCEL (R65) -/

/-- A WAITING or HELD record retired CANCELLED; a HELD bay is freed and offered, an identifying one goes on without its kept
hold. -/
def State.cancelRecord (s : State) (i : SlotNo) (r : Reservation) : State :=
  match r.bay with
  | some b => (s.retire i .cancelled).settleLeftBay b (s.bay b).state
  | none => s.retire i .cancelled

/-- CANCEL at the Reservation Table. -/
def State.cancel (s : State) (t : BitVec 16) : State × Answer :=
  match s.resolve t with
  | .live i r =>
    match r.state with
    | .waiting | .held => (s.cancelRecord i r, ⟨.ok, []⟩)
    | .engaged | .charging | .overstay => (s, ⟨.wrongState, []⟩)
  | .retired _ | .stale => (s, ⟨.staleTicket, []⟩)

/-- CANCEL (R65). -/
def execCancel (t : BitVec 16) (s : State) : Host.Outcome State Fault Refusal :=
  .next (s.serve (.cancel t) (settled fun u => u.cancel t))

/-! ### RELEASE (R66) -/

/-- The bay of a released record: BLOCKED with BAY_ALERT at a bay in service, kept as it is out of service. -/
def State.settleReleased (s : State) (b : BayNo) : State :=
  if (s.bay b).state.inService then ((s.enter b .blocked).dropDeadline (.bay b)).raise .bayAlert else s

/-- The three steps of RELEASE, and whether the session it ended calls for a run. -/
def State.releaseRecord (s : State) (i : SlotNo) (r : Reservation) : Ev :=
  match r.bay with
  | some b => (((s.endSession b true false).retire i .released).settleReleased b, s.charging b)
  | none => (s.retire i .released, false)

/-- RELEASE at the Reservation Table. -/
def State.release (s : State) (t : BitVec 16) : State × Answer :=
  match s.resolve t with
  | .live i r =>
    match r.state with
    | .waiting | .held => (s, ⟨.wrongState, []⟩)
    | .engaged | .charging | .overstay => (takeRun (s.releaseRecord i r), ⟨.ok, le 1 Ending.released.code⟩)
  | .retired _ | .stale => (s, ⟨.staleTicket, []⟩)

/-- RELEASE (R66). -/
def execRelease (t : BitVec 16) (s : State) : Host.Outcome State Fault Refusal :=
  .next (s.serve (.release t) (settled fun u => u.release t))

/-! ### Queries and LIST CHANGES (R57, R67, R68) -/

/-- The answer of QUERY RESERVATION. -/
def State.queryReservation (s : State) (t : BitVec 16) : Answer :=
  match s.resolve t with
  | .live i r => ⟨.ok, s.reservationRecord i r⟩
  | .retired o => ⟨.retired, le 1 o.code⟩
  | .stale => ⟨.staleTicket, []⟩

/-- QUERY RESERVATION (R67). -/
def execQueryReservation (t : BitVec 16) (s : State) : Host.Outcome State Fault Refusal :=
  .next (s.serve (.queryReservation t) fun u => (u, u.queryReservation t))

/-- The answer of FIND CREDENTIAL. -/
def State.findCredential (s : State) (c : Credential) : Answer :=
  match s.findLive c with
  | some i =>
    match s.record i with
    | some r => ⟨.ok, le 2 (s.ticket i) ++ le 1 r.state.code ++ bayField r.bay⟩
    | none => ⟨.noSuch, []⟩
  | none => ⟨.noSuch, []⟩

/-- FIND CREDENTIAL (R68). -/
def execFindCredential (c : Credential) (s : State) : Host.Outcome State Fault Refusal :=
  .next (s.serve (.findCredential c) fun u => (u, u.findCredential c))

/-- The marked slots one LIST CHANGES returns: the 32 lowest (R57). -/
def State.listedSlots (s : State) : List SlotNo := (allSlots.filter fun i => (s.slot i).mark).take Config.maxListed

/-- The marks of the returned slots cleared, and the new marked count handed over (R56, R57). -/
def State.clearMarks (s : State) (listed : List SlotNo) : State :=
  (listed.foldl (fun t i => t.modSlot i fun x => { x with mark := false }) s).evaluateChanges

/-- LIST CHANGES at the Reservation Table. -/
def State.listChanges (s : State) : State × Answer :=
  let listed := s.listedSlots
  let t := s.clearMarks listed
  (t, ⟨.ok, le 1 listed.length ++ le 2 t.markedCount ++ (listed.map s.changeEntry).flatten⟩)

/-- LIST CHANGES (R57). -/
def execListChanges (s : State) : Host.Outcome State Fault Refusal :=
  .next (s.serve .listChanges fun t => t.listChanges)

end Sys2Proof.Machine
end

