-- ==== Sys2Proof/Machine/Resets.lean ====
section
/-! DEFINITION. The two resets: RESET, the soft reset, in the nine steps of R186, and the hardware reset (R187). -/

namespace Sys2Proof.Machine

/-- Step 2: the session at a bay ended without a STOP of its own or a mark, then the bay's orders dropped; the acknowledged and
stranded grants are kept (R35, R141). -/
def State.dropOrders (s : State) (b : BayNo) : State :=
  (s.endSession b false false).modGrant b fun g =>
    { g with target := 0, outstanding := none, pending := none, heldBack := none, startQueued := false }

/-- Step 3: every live record retired with outcome RESET in ascending slot order, the ratio counter 0 (R73, R108). -/
def State.retireAll (s : State) : State := { allSlots.foldl (fun t i => t.retire i .reset) s with ratioCount := 0 }

/-- Step 4: no deadline left, C = 0 (R119, R153). -/
def State.dropAllDeadlines (s : State) : State := { s with deadlines := [], curtailment := 0 }

/-- Step 5: a planned bay in service becomes FREE, or IDENTIFYING with a new IDENTIFY_END, by its last occupancy (R45). -/
def State.resetBay (s : State) (b : BayNo) : State :=
  if (s.bay b).state.inService then
    match (s.bay b).occupancy with
    | .empty => s.enter b .free
    | .occupied => s.startIdentifying b
  else s

/-- Step 6, first part: a lane's queue flushed; the entry of an ORDER on its line is dropped with the rest (R172). -/
def Lane.flushed (l : Lane) : Lane := { l with queue := [], line := l.line.map fun x => { x with dropped := x.order.isSome } }

/-- Step 6, second part: the zero STOP of a planned bay's reachable unit (R172). -/
def State.zeroStop (s : State) (b : BayNo) : State :=
  if (s.bay b).place.isSome && (s.unit b).link.reachable then s.handGrant b 0 .stop else s

/-- Step 6 (R172). -/
def State.resetLanes (s : State) : State :=
  allBays.foldl State.zeroStop (allLanes.foldl (fun t l => t.modLane l Lane.flushed) s)

/-- Step 9: the notice status cleared, CHANGES set again from the marked count, the line driven (R193). -/
def State.resetNotices (s : State) : State := { s with notices := { s.notices with status := 0 }.drive }.evaluateChanges

/-- The soft reset (R186). -/
def State.softReset (s : State) : State :=
  let s1 := { s with staged := [] }.setSequence none
  let s3 := (allBays.foldl State.dropOrders s1).retireAll
  let s5 := allBays.foldl State.resetBay s3.dropAllDeadlines
  (s5.resetLanes.allocationRun.offerFreeBays).resetNotices

/-- RESET (R186). -/
def execReset (s : State) : Host.Outcome State Fault Refusal :=
  .next (s.serve .reset (settled fun t => (t.softReset, ⟨.ok, []⟩)))

/-- HARDWARE_RESET: the part as after a hardware reset (R19, R44, R72, R108, R119, R140, R152, R171, R187, R193). The commands
that wait are the world's, not the part's, and stay (notes/assumptions/1.md). -/
def execHardwareReset (s : State) : Host.Outcome State Fault Refusal := .next { State.reset with pending := s.pending }

end Sys2Proof.Machine
end

