-- ==== Sys2Proof/Machine/SiteRequests.lean ====
section
/-! DEFINITION. The requests that name no bay and no reservation: QUERY FEEDER (R139), CURTAIL (R148, R149), the clock (R111,
R112), the notices (R189, R190) and the counters (R192). -/

namespace Sys2Proof.Machine

/-! ### QUERY FEEDER (R139) -/

/-- The answer of QUERY FEEDER. -/
def State.queryFeeder (s : State) (n : Byte) : Answer :=
  match feederNo? n with
  | some f =>
    match s.feederPlan f with
    | some p => ⟨.ok, s.feederRecord f p⟩
    | none => ⟨.noSuch, []⟩
  | none => ⟨.noSuch, []⟩

/-- QUERY FEEDER (R139). -/
def execQueryFeeder (n : Byte) (s : State) : Host.Outcome State Fault Refusal :=
  .next (s.serve (.queryFeeder n) fun t => (t, t.queryFeeder n))

/-! ### CURTAIL (R148, R149, R151) -/

/-- The due time of CURTAIL_END, absent while no curtailment is active (R142). -/
def State.curtailDue (s : State) : Option Nat := (s.deadlineOf .curtailment).map (·.due)

/-- The body of a CURTAIL reply: amount, E and end after the request `s` has been taken from `before` (R148, 12.2). -/
def State.curtailBody (s before : State) : List Byte :=
  le 2 s.curtailment ++ le 2 s.siteBudget ++ [flagByte s.curtailDue.isSome] ++ valueOr0 4 s.curtailDue ++
  le 2 before.curtailment ++ [flagByte before.curtailDue.isSome] ++ valueOr0 4 before.curtailDue

/-- A curtailment started or replaced: a run only if C changes (R148). -/
def State.startCurtailment (s : State) (amount duration : Nat) : State :=
  takeRun ({ s with curtailment := amount }.startDeadline .curtailEnd .curtailment duration,
    decide (amount ≠ s.curtailment))

/-- The curtailment ended at once: a run only if C was above 0 (R149). -/
def State.endCurtailment (s : State) : State :=
  if (s.deadlineOf .curtailment).isSome then
    takeRun ({ s with curtailment := 0 }.dropDeadline .curtailment, decide (0 < s.curtailment))
  else s

/-- A CURTAIL at the Load Monitor (R148, R149). -/
def State.curtail (amount duration : Nat) (s : State) : State × Answer :=
  let t := if amount = 0 then s.endCurtailment else s.startCurtailment amount duration
  (t, ⟨.ok, t.curtailBody s⟩)

/-- CURTAIL with an amount (R148). -/
def execCurtail (amount : BitVec 16) (duration : BitVec 32) (s : State) : Host.Outcome State Fault Refusal :=
  .next (s.serve (.curtail amount duration) (settled (State.curtail amount.toNat duration.toNat)))

/-- CURTAIL with amount 0 (R149). -/
def execCurtailAmountZero (duration : BitVec 32) (s : State) : Host.Outcome State Fault Refusal :=
  .next (s.serve (.curtailAmountZero duration) (settled (State.curtail 0 duration.toNat)))

/-! ### The clock (R111, R112) -/

/-- SET CLOCK at the Deadline List: the reading after and the expiries taken (R111). -/
def State.setClock (s : State) (value : Nat) : State × Answer :=
  if value < s.clock then (s, ⟨.clockBackward, le 4 s.clock ++ le 2 0⟩)
  else if value = s.clock then (s, ⟨.ok, le 4 s.clock ++ le 2 0⟩)
  else
    let e := s.advanceClock value
    (e.1, ⟨.ok, le 4 e.1.clock ++ le 2 (min e.2 65535)⟩)

/-- SET CLOCK (R111). -/
def execSetClock (value : BitVec 32) (s : State) : Host.Outcome State Fault Refusal :=
  .next (s.serve (.setClock value) (settled fun t => t.setClock value.toNat))

/-- The answer of READ CLOCK (R112). -/
def State.readClock (s : State) : Answer :=
  ⟨.ok, le 4 s.clock ++ le 2 s.deadlines.length ++ le 1 ((s.deadlines.head?.map (·.kind.code)).getD 0) ++
    valueOr0 4 (s.deadlines.head?.map (·.due))⟩

/-- READ CLOCK (R112). -/
def execReadClock (s : State) : Host.Outcome State Fault Refusal :=
  .next (s.serve .readClock fun t => (t, t.readClock))

/-! ### Notices (R189, R190) -/

/-- Every flag but CHANGES cleared, the line driven from what is left (R190). -/
def Notices.taken (n : Notices) : Notices := { n with status := n.status &&& Notice.changes.word }.drive

/-- READ NOTICES at the Notice and Counter Unit. -/
def State.readNotices (s : State) : State × Answer :=
  ({ s with notices := s.notices.taken },
    ⟨.ok, le 1 s.notices.status.toNat ++ le 1 s.notices.mask.toNat ++ le 2 s.markedCount ++ le 1 s.notices.threshold⟩)

/-- READ NOTICES (R190). -/
def execReadNotices (s : State) : Host.Outcome State Fault Refusal :=
  .next (s.serve .readNotices fun t => t.readNotices)

/-- SET NOTICE MASK at the Notice and Counter Unit: the line driven from the status under the new mask. -/
def State.setNoticeMask (s : State) (mask : Byte) : State × Answer :=
  let t := { s with notices := { s.notices with mask := mask.setWidth 6 }.drive }
  (t, ⟨.ok, le 1 t.notices.mask.toNat ++ le 1 t.notices.status.toNat⟩)

/-- SET NOTICE MASK (R190). -/
def execSetNoticeMask (mask : Byte) (s : State) : Host.Outcome State Fault Refusal :=
  .next (s.serve (.setNoticeMask mask) fun t => t.setNoticeMask mask)

/-- SET CHANGE THRESHOLD at the Notice and Counter Unit: CHANGES evaluated against the present marked count. -/
def State.setChangeThreshold (s : State) (threshold : Nat) : State × Answer :=
  let t := { s with notices := { s.notices with threshold := threshold } }.evaluateChanges
  (t, ⟨.ok, le 1 threshold ++ le 2 t.markedCount⟩)

/-- SET CHANGE THRESHOLD (R189). -/
def execSetChangeThreshold (threshold : Byte) (s : State) : Host.Outcome State Fault Refusal :=
  .next (s.serve (.setChangeThreshold threshold) fun t => t.setChangeThreshold threshold.toNat)

/-! ### Counters (R192) -/

/-- SNAPSHOT COUNTERS at the Notice and Counter Unit. -/
def State.snapshotCounters (s : State) (clear : Bool) : State × Answer :=
  ({ s with snapshot := s.counters, counters := if clear then Vector.replicate 18 0 else s.counters }, ⟨.ok, []⟩)

/-- SNAPSHOT COUNTERS (R192). -/
def execSnapshotCounters (clear : Byte) (s : State) : Host.Outcome State Fault Refusal :=
  .next (s.serve (.snapshotCounters clear) fun t => t.snapshotCounters (clear != 0))

/-- The answer of READ COUNTERS: the bank, not the counters (R192). -/
def State.readCounters (s : State) : Answer := ⟨.ok, (s.snapshot.toList.map (le 4)).flatten⟩

/-- READ COUNTERS (R192). -/
def execReadCounters (s : State) : Host.Outcome State Fault Refusal :=
  .next (s.serve .readCounters fun t => (t, t.readCounters))

end Sys2Proof.Machine
end

