-- ==== Sys2Proof/Machine/Dispatch.lean ====
section
/-! DEFINITION. The effect of every command of the opcode table, one arm per constructor. -/

namespace Sys2Proof.Machine

/-- The effect of a command on everything but the queue of commands that wait. -/
def exec (i : Instr) (s : State) : Host.Outcome State Fault Refusal :=
  match i with
  | .writeTransaction begunBusy bytes => Sys2Proof.Machine.execWriteTransaction begunBusy bytes s
  | .readTransaction begunBusy count => Sys2Proof.Machine.execReadTransaction begunBusy count s
  | .invalidCommandTransaction begunBusy command count => Sys2Proof.Machine.execInvalidCommandTransaction begunBusy command count s
  | .book q => Sys2Proof.Machine.execBook q s
  | .amend q => Sys2Proof.Machine.execAmend q s
  | .cancel ticket => Sys2Proof.Machine.execCancel ticket s
  | .release ticket => Sys2Proof.Machine.execRelease ticket s
  | .queryReservation ticket => Sys2Proof.Machine.execQueryReservation ticket s
  | .findCredential credential => Sys2Proof.Machine.execFindCredential credential s
  | .listChanges => Sys2Proof.Machine.execListChanges s
  | .queryBay bay => Sys2Proof.Machine.execQueryBay bay s
  | .setBayServiceOut bay => Sys2Proof.Machine.execSetBayServiceOut bay s
  | .setBayServiceIn bay => Sys2Proof.Machine.execSetBayServiceIn bay s
  | .clearStranded bay => Sys2Proof.Machine.execClearStranded bay s
  | .loadPlanFirst body => Sys2Proof.Machine.execLoadPlanFirst body s
  | .loadPlanMiddle body => Sys2Proof.Machine.execLoadPlanMiddle body s
  | .loadPlanLast body => Sys2Proof.Machine.execLoadPlanLast body s
  | .loadPlanOnly body => Sys2Proof.Machine.execLoadPlanOnly body s
  | .queryFeeder feeder => Sys2Proof.Machine.execQueryFeeder feeder s
  | .curtail amount duration => Sys2Proof.Machine.execCurtail amount duration s
  | .curtailAmountZero duration => Sys2Proof.Machine.execCurtailAmountZero duration s
  | .setClock value => Sys2Proof.Machine.execSetClock value s
  | .readClock => Sys2Proof.Machine.execReadClock s
  | .readNotices => Sys2Proof.Machine.execReadNotices s
  | .setNoticeMask mask => Sys2Proof.Machine.execSetNoticeMask mask s
  | .setChangeThreshold threshold => Sys2Proof.Machine.execSetChangeThreshold threshold s
  | .snapshotCounters clear => Sys2Proof.Machine.execSnapshotCounters clear s
  | .readCounters => Sys2Proof.Machine.execReadCounters s
  | .reset => Sys2Proof.Machine.execReset s
  | .hardwareReset => Sys2Proof.Machine.execHardwareReset s
  | .secPulse => Sys2Proof.Machine.execSecPulse s
  | .holdEnd slot => Sys2Proof.Machine.execHoldEnd slot s
  | .waitEnd slot => Sys2Proof.Machine.execWaitEnd slot s
  | .stayEnd slot => Sys2Proof.Machine.execStayEnd slot s
  | .identifyEnd bay => Sys2Proof.Machine.execIdentifyEnd bay s
  | .graceEnd bay => Sys2Proof.Machine.execGraceEnd bay s
  | .curtailEnd => Sys2Proof.Machine.execCurtailEnd s
  | .report lane frame => Sys2Proof.Machine.execReport lane frame s
  | .ack lane frame => Sys2Proof.Machine.execAck lane frame s
  | .replyTimeout lane => Sys2Proof.Machine.execReplyTimeout lane s
  | .badReplyFrame lane frame => Sys2Proof.Machine.execBadReplyFrame lane frame s
  | .lateFrame lane frame => Sys2Proof.Machine.execLateFrame lane frame s

end Sys2Proof.Machine
end

