-- ==== Sys2Proof/WellFormed.lean ====
section
/-! DEFINITION. Which commands are well formed: every field in the range the spec states for it (R46, R148, R178 to R182,
R189, R190, R194), every received frame of the length its request fixes (R156). An ill-formed request is still run: the port
answers it as R178 says. -/

namespace Sys2Proof

/-- A flag, presence flag or direction byte: 0 or 1 (R194). -/
def isFlagByte (x : Byte) : Bool := x.toNat ≤ 1

/-- A value in a closed range (00, Numbers). -/
def within (lo hi x : Nat) : Bool := lo ≤ x && x ≤ hi

/-- The ranges of a BOOK's fields (R46, R58, R179, R194): a value behind a clear presence flag is not read. -/
def BookReq.wellFormed (q : BookReq) : Bool :=
  q.credential != 0 && within 0 2 q.cls.toNat && isFlagByte q.large && q.zoneMask != 0 &&
  within 60 7200 q.hold.toNat && within 0 14400 q.wait.toNat && within 600 86400 q.stay.toNat &&
  isFlagByte q.capPresent && (q.capPresent == 0 || within 10 1500 q.cap.toNat) &&
  isFlagByte q.pinPresent && (q.pinPresent == 0 || within 0 511 q.pin.toNat)

/-- The ranges of an AMEND's fields (R46, R61, R194). -/
def AmendReq.wellFormed (q : AmendReq) : Bool :=
  isFlagByte q.holdPresent && (q.holdPresent == 0 || within 60 7200 q.hold.toNat) &&
  isFlagByte q.stayPresent && (q.stayPresent == 0 || within 600 86400 q.stay.toNat) &&
  within 0 2 q.capAction.toNat && (q.capAction != 1 || within 10 1500 q.cap.toNat) &&
  isFlagByte q.maskPresent && (q.maskPresent == 0 || q.mask != 0)

/-- The well-formed commands. -/
def Instr.wellFormed : Instr → Bool
  | .writeTransaction _ _ => true
  | .readTransaction _ _ => true
  | .invalidCommandTransaction _ command count =>
      command != some 0x01 && command != some 0x02 && (command.isSome || count == 0)
  | .book q => q.wellFormed
  | .amend q => q.wellFormed
  | .cancel _ => true
  | .release _ => true
  | .queryReservation _ => true
  | .findCredential c => c != 0
  | .listChanges => true
  | .queryBay b => within 0 511 b.toNat
  | .setBayServiceOut b => within 0 511 b.toNat
  | .setBayServiceIn b => within 0 511 b.toNat
  | .clearStranded b => within 0 511 b.toNat
  | .loadPlanFirst body => body.length ≤ Config.maxBodyBytes
  | .loadPlanMiddle body => body.length ≤ Config.maxBodyBytes
  | .loadPlanLast body => body.length ≤ Config.maxBodyBytes
  | .loadPlanOnly body => body.length ≤ Config.maxBodyBytes
  | .queryFeeder f => within 0 15 f.toNat
  | .curtail amount duration => amount != 0 && within 1 86400 duration.toNat
  | .curtailAmountZero _ => true
  | .setClock _ => true
  | .readClock => true
  | .readNotices => true
  | .setNoticeMask m => within 0 63 m.toNat
  | .setChangeThreshold t => within 1 64 t.toNat
  | .snapshotCounters c => isFlagByte c
  | .readCounters => true
  | .reset => true
  | .hardwareReset => true
  | .secPulse => true
  | .holdEnd _ => true
  | .waitEnd _ => true
  | .stayEnd _ => true
  | .identifyEnd _ => true
  | .graceEnd _ => true
  | .curtailEnd => true
  | .report _ frame => frame.length == 21
  | .ack _ frame => frame.length == 7
  | .replyTimeout _ => true
  | .badReplyFrame _ frame => frame.length == 21 || frame.length == 7
  | .lateFrame _ _ => true

end Sys2Proof
end

