-- ==== Sys2Proof/Safety.lean ====
section
/-! DEFINITION. What a lawful state of the part is, block by block, in the terms the claims use: the conditions the rules say always
hold of a record, a unit, a monitor, a lane, the port, the notices and the deadline list. -/

namespace Sys2Proof.Machine

/-- A bay's lamp aspect follows its state (R23), and it has a reason exactly while it is OUT_OF_SERVICE (R22). -/
def Bay.Lawful (x : Bay) : Prop := x.aspect = x.state.aspect ∧ x.reason.isSome = (x.state == .outOfService)

/-- A unit's countdown is the one its link state has (R162), its verify counts are within their bounds (R167). -/
def BayUnit.Lawful (u : BayUnit) : Prop :=
  (match u.link with
    | .unheard => u.countdown = 0
    | .active => u.countdown = 3
    | .silent => u.countdown = 1 ∨ u.countdown = 2
    | .lost => u.countdown = 0) ∧ u.mismatch ≤ 1 ∧ u.resends ≤ Config.maxResends

/-- A trim step is 0 in NORMAL and 1 to 3 in TRIMMED and EASED (R146). -/
def Monitor.Lawful (m : Monitor) : Prop := if m.state = .normal then m.step = 0 else 1 ≤ m.step ∧ m.step ≤ 3

/-- A feeder whose monitor, if it has one, is lawful. -/
def Feeder.Lawful (x : Feeder) : Prop := ∀ m, x.monitor = some m → m.Lawful

/-- A lane has sent at most eight orders in a row (R159); its queue and its line hold only units of the lane (R154, R158). -/
def Lane.Lawful (l : LaneNo) (x : Lane) : Prop :=
  x.orderCount ≤ Config.maxOrdersInARow ∧ (∀ e ∈ x.queue, laneOf e.bay = l) ∧ (∀ y, x.line = some y → laneOf y.bay = l)

/-- The port holds a reply exactly in REPLY (R174), a request exactly in BUSY, and one that has passed check 8 (R180); its frame is
no longer than its buffer, and an open sequence has 1 to 64 segments (R174, R182). -/
def Port.Lawful (p : Port) : Prop :=
  p.reply.isSome = (p.state == .reply) ∧ p.frame.length ≤ Config.frameBufferBytes ∧
    (∀ n, p.sequence = some n → 1 ≤ n ∧ n ≤ Config.maxSegments) ∧
    p.request.isSome = (p.state == .busy) ∧ ∀ c, p.request = some c → badField c = 0

/-- The NOTICE line is low exactly while a flag is set with its mask bit clear (R188), and the threshold is 1 to 64 (R189). -/
def Notices.Lawful (n : Notices) : Prop :=
  n.lineLow = ((n.status &&& ~~~n.mask) != 0) ∧ 1 ≤ n.threshold ∧ n.threshold ≤ 64

/-- An entry's owner is of the kind its deadline kind has (R113). -/
def Deadline.kindFits (d : Deadline) : Bool :=
  match d.kind, d.owner with
  | .holdEnd, .slot _ | .waitEnd, .slot _ | .stayEnd, .slot _ => true
  | .identifyEnd, .bay _ | .graceEnd, .bay _ => true
  | .curtailEnd, .curtailment => true
  | _, _ => false

/-- The deadline list stands in ascending due time, holds at most one entry for each owner, and each entry's owner fits its kind
(R113). -/
def DeadlinesLawful (ds : List Deadline) : Prop :=
  ds.Pairwise (fun a b => a.due ≤ b.due) ∧ (ds.map (·.owner)).Nodup ∧ ∀ d ∈ ds, d.kindFits = true

/-- The free-slot list holds each FREE slot once, and no live slot (R50). -/
def State.FreeListLawful (s : State) : Prop := s.freeSlots.Nodup ∧ ∀ i, i ∈ s.freeSlots ↔ s.record i = none

/-- CHANGES is set while the marked count is at or above the threshold and clear while it is 0 (R189). -/
def State.ChangesLawful (s : State) : Prop :=
  (s.notices.threshold ≤ s.markedCount → s.notices.isSet .changes = true) ∧
    (s.markedCount = 0 → s.notices.isSet .changes = false)

/-- What always holds of the parts of a state: every bay, unit, feeder and lane, the deadline list, the port and the ratio counter is
as the rules say it stands. -/
def State.Lawful (s : State) : Prop :=
  (∀ b, (s.bay b).Lawful) ∧ (∀ b, (s.unit b).Lawful) ∧ (∀ f, (s.feeder f).Lawful) ∧ (∀ l, (s.lane l).Lawful l) ∧
    DeadlinesLawful s.deadlines ∧ s.port.Lawful ∧ s.ratioCount ≤ 8

/-- What always holds of the slots, the notices and the port: the free-slot list holds exactly the FREE slots, the NOTICE line follows
status and mask, CHANGES follows the marked count, and a request in the part has passed check 8 (R50, R180, R188, R189). -/
def State.BooksLawful (s : State) : Prop := s.FreeListLawful ∧ s.notices.Lawful ∧ s.ChangesLawful ∧ s.port.Lawful

/-- Whether a command is the end of an exchange on a lane, or a frame outside one (R155, R156). -/
def isLaneEvent : Instr → Bool
  | .report _ _ | .ack _ _ | .replyTimeout _ | .badReplyFrame _ _ | .lateFrame _ _ => true
  | _ => false

/-- Whether a command is a request of the booking port (R184). -/
def isRequest (c : Instr) : Bool := (requestCode c).isSome

/-- Whether a command closes a segment sequence: a LOAD PLAN with part LAST or ONLY (R183). -/
def closesSequence : Instr → Bool
  | .loadPlanLast _ => true
  | .loadPlanOnly _ => true
  | _ => false

/-- A request its owner takes: the one the port has handed over, taken from a frame and not yet answered (R180). -/
def State.takes (s : State) (c : Instr) : Prop := s.port.request = some c

/-- The reply frame of a request's code, with the FREE slot count of the state the reply is made in for a reservation request
(R177, R180, 12.2). -/
def State.replyTo (s : State) (c : Instr) (status : Status) (body : List Byte) : List Byte :=
  let code := (requestCode c).getD 0
  portFrame (replyCode (BitVec.ofNat 8 code)) status.code (s.freeField code ++ body)

/-- `s` with its port in REPLY holding a reply frame, and nothing of the request (R180, R181). -/
def State.withReply (s : State) (frame : List Byte) : State :=
  { s with port := { s.port with state := .reply, frame := [], request := none, reply := some frame } }

/-- `u` with its port in REPLY holding the reply to a request: the request's code, a status and a body, behind the FREE slot count
of `u` for a reservation request (R177, R180, 12.2). -/
def State.answered (u : State) (c : Instr) (status : Status) (body : List Byte) : State :=
  u.withReply (u.replyTo c status body)

end Sys2Proof.Machine
end

