-- ==== Sys2Proof/Certificates/Slice0/Obligations.lean ====
section
/-! DEFINITION. The statements about the BC512, chapter by chapter. A statement about a command concludes that `exec` answers a next
state and says what that state holds; `u.answered c status body` is `u` with the port in REPLY holding the reply to `c`. A frame is
written as an equation between whole records: `{ t with x := s.x } = s` says that `t` differs from `s` in `x` alone. -/

open Sys2Proof Sys2Proof.Machine

/-! ### The machine as a queue of commands -/

/-- One event at a time (95): a step takes the front command and runs it on the state with the queue's rest. That an empty queue
idles is the model's choice (notes/assumptions/1.md). -/
def Obligations.StepRunsTheFrontCommand : Prop :=
  (∀ (c : Instr) (s : State), step { s with pending := c :: s.pending } = exec c s) ∧
    ∀ s : State, s.pending = [] → step s = .next s

/-- R187, R193, R72, R140, R152, R171, R119, R108, R44, R19: what a hardware reset leaves; it is a lawful state, the one from which
the two invariants below start. The waiting commands stay, which is the model's choice (notes/assumptions/1.md). -/
def Obligations.HardwareResetLeavesTheResetState : Prop :=
  (∀ s : State, exec .hardwareReset s = .next { State.reset with pending := s.pending }) ∧
    State.reset.Lawful ∧ State.reset.BooksLawful ∧
    State.reset.plan = none ∧ State.reset.staged = [] ∧ State.reset.clock = 0 ∧ State.reset.deadlines = [] ∧
    State.reset.port.state = .ready ∧ State.reset.port.frame = [] ∧ State.reset.port.request = none ∧
    State.reset.port.reply = none ∧
    State.reset.port.sequence = none ∧
    (∀ b, (State.reset.bay b).place = none ∧ (State.reset.bay b).state = .unplanned ∧ (State.reset.bay b).reason = none ∧
      (State.reset.bay b).returnRequested = false ∧ (State.reset.bay b).bound = none ∧ (State.reset.bay b).keptHold = false ∧
      (State.reset.bay b).occupancy = .empty ∧ (State.reset.bay b).occupancyHeld = false ∧
      (State.reset.bay b).plug = .unplugged ∧ (State.reset.bay b).stop = false ∧ (State.reset.bay b).credential = none ∧
      (State.reset.bay b).metered = 0 ∧ (State.reset.bay b).demand = 0 ∧ (State.reset.bay b).aspect = .dark ∧
      (State.reset.bay b).starved = false) ∧
    (∀ b, (State.reset.grant b).target = 0 ∧ (State.reset.grant b).acknowledged = 0 ∧
      (State.reset.grant b).outstanding = none ∧ (State.reset.grant b).pending = none ∧
      (State.reset.grant b).heldBack = none ∧ (State.reset.grant b).stranded = 0 ∧
      (State.reset.grant b).zeroAcked = false) ∧
    (∀ f, (State.reset.feeder f).pledge = 0 ∧ (State.reset.feeder f).stranded = 0 ∧ (State.reset.feeder f).want = 0 ∧
      (State.reset.feeder f).budget = 0 ∧ (State.reset.feeder f).trimmedBudget = 0 ∧
      (State.reset.feeder f).sessionBudget = 0 ∧ (State.reset.feeder f).monitor = none ∧ State.reset.gateOpen f = true) ∧
    State.reset.effective = 0 ∧ State.reset.sessionSeq = 0 ∧ State.reset.curtailment = 0 ∧
    (∀ i, (State.reset.slot i).record = none ∧ (State.reset.slot i).generation = 0 ∧
      (State.reset.slot i).lastOutcome = none ∧ (State.reset.slot i).mark = false) ∧
    State.reset.freeSlots = List.finRange 1024 ∧ State.reset.bookingSeq = 0 ∧ State.reset.markedCount = 0 ∧
    (∀ t, State.reset.resolve t = .stale) ∧
    State.reset.highList = [] ∧ State.reset.normalList = [] ∧ State.reset.ratioCount = 0 ∧
    (∀ l, (State.reset.lane l).queue = [] ∧ (State.reset.lane l).line = none ∧ (State.reset.lane l).orderCount = 0 ∧
      (State.reset.lane l).cursor = none) ∧
    (∀ b, (State.reset.unit b).link = .unheard ∧ (State.reset.unit b).countdown = 0 ∧ (State.reset.unit b).mismatch = 0 ∧
      (State.reset.unit b).resends = 0) ∧
    State.reset.notices.status = 0 ∧ State.reset.notices.mask = 0x3F ∧ State.reset.notices.threshold = 1 ∧
    State.reset.notices.lineLow = false ∧
    ∀ c, State.reset.counter c = 0 ∧ State.reset.snapshot[c.index.val] = 0

/-! ### The Booking Port (chapter 10) -/

/-- R175, R177, R178, R179, R180, R184, R194: the frame of a well-formed request, written while the port is not BUSY, passes every
check and is handed to its owner as that request, with every operand at every value its field admits; the port is left BUSY with the
frame in its buffer and the request to be answered, and nothing else changes. -/
def Obligations.WellFormedRequestFramesAreTaken : Prop :=
  ∀ (c : Instr) (f : List Byte) (s : State), requestFrame c = some f → c.wellFormed = true →
    (needsPlan c = true → s.plan ≠ none) → s.port.state ≠ .busy →
    s.judgeFrame f = .request c ∧
      exec (.writeTransaction false f) s = .next
        { s with port := { s.port with
            state := .busy, reply := none, frame := f, request := some c
            shifted := s.port.state.code :: List.replicate f.length 0 } }

/-- R178, checks 1 to 7, in their order: the reply of a frame that fails one, its code the frame's first byte plus 0x80; a failing
frame reaches no owner and leaves the rest of the part, an open segment sequence among it, as it was. `forms` is the catalogue of R184
with the body lengths of 12.2. That the reply is ready at the end of the write transaction is the model's reading
(notes/assumptions/4.md); that the frame buffer is then empty follows from R181 (notes/assumptions/5.md). -/
def Obligations.FailingFramesAreAnsweredInOrder : Prop :=
  ∀ (bytes : List Byte) (s : State), s.port.state ≠ .busy →
    let forms : List (Nat × Nat) := [(0x10, 22), (0x11, 15), (0x12, 2), (0x13, 2), (0x14, 2), (0x15, 5), (0x16, 0), (0x20, 2),
      (0x21, 3), (0x22, 2), (0x40, 1), (0x41, 6), (0x50, 4), (0x51, 0), (0x60, 0), (0x61, 1), (0x62, 1), (0x63, 1), (0x64, 0),
      (0x7F, 0)]
    let sum := (bytes.map (·.toNat)).sum % 256
    let code := (bytes.getD 0 0).toNat
    let part := (bytes.getD 1 0).toNat
    let length := (bytes.getD 2 0).toNat + 256 * (bytes.getD 3 0).toNat
    let shaped := 5 ≤ bytes.length ∧ length ≤ 1016 ∧ bytes.length = length + 5
    let known := code = 0x30 ∨ ∃ n, (code, n) ∈ forms
    let free := if 0x10 ≤ code ∧ code ≤ 0x16 then le 2 s.freeSlots.length else []
    let t : State := { s with port := { s.port with shifted := s.port.state.code :: List.replicate bytes.length 0 } }
    let answer (u : State) (status : Status) (body : List Byte) :=
      u.withReply (portFrame (bytes.getD 0 0 + 0x80) status.code body)
    (1024 < bytes.length →
      exec (.writeTransaction false bytes) s = .next (answer (t.bump .framesDiscarded) .badLength [])) ∧
    (bytes.length ≤ 1024 → sum ≠ 0 → exec (.writeTransaction false bytes) s = .next (answer t .badChecksum [])) ∧
    (bytes.length ≤ 1024 → sum = 0 → ¬shaped → exec (.writeTransaction false bytes) s = .next (answer t .badLength [])) ∧
    (shaped → sum = 0 → ¬known → exec (.writeTransaction false bytes) s = .next (answer t .unknownRequest [])) ∧
    (shaped → sum = 0 → known → 3 < part →
      exec (.writeTransaction false bytes) s = .next (answer t .badParameter (0 :: free))) ∧
    (shaped → sum = 0 → known → code ≠ 0x30 → 1 ≤ part → part ≤ 3 →
      exec (.writeTransaction false bytes) s = .next (answer t .segmentOrder [])) ∧
    (∀ n, shaped → sum = 0 → (code, n) ∈ forms → part = 0 → length ≠ n →
      exec (.writeTransaction false bytes) s = .next (answer t .badLength []))

/-- R178 checks 8 and 9, R179, R184, R194: `fields` are the fields of each request in the order of its form, each with its stated range
(a value behind a clear presence flag, a cap without action 1 and a duration with amount 0 are not read). A request's frame with a field
out of its range is answered BAD_PARAMETER with the number, from 1, of the first one; one of BOOK, QUERY BAY, SET BAY SERVICE,
CLEAR STRANDED and QUERY FEEDER with every field in range is answered NO_PLAN while no plan is active. SET BAY SERVICE with a bay above
511 fails at field 1, whatever its direction, and otherwise with a direction that is neither 0 nor 1 at field 2. The reply to a
reservation request carries the FREE slot count too. That the reply is ready at the end of the write transaction is the model's reading
(notes/assumptions/4.md), and that the frame buffer is then empty follows from R181 (notes/assumptions/5.md). -/
def Obligations.FieldAndPlanChecksAreAnswered : Prop :=
  let within (lo hi x : Nat) : Bool := decide (lo ≤ x ∧ x ≤ hi)
  let flag (x : Byte) : Bool := decide (x = 0 ∨ x = 1)
  let fields (c : Instr) : List Bool := match c with
    | .book q => [decide (q.credential ≠ 0), within 0 2 q.cls.toNat, flag q.large, decide (q.zoneMask ≠ 0), within 60 7200 q.hold.toNat,
        within 0 14400 q.wait.toNat, within 600 86400 q.stay.toNat, flag q.capPresent,
        decide (q.capPresent = 0) || within 10 1500 q.cap.toNat, flag q.pinPresent,
        decide (q.pinPresent = 0) || within 0 511 q.pin.toNat]
    | .amend q => [true, flag q.holdPresent, decide (q.holdPresent = 0) || within 60 7200 q.hold.toNat, flag q.stayPresent,
        decide (q.stayPresent = 0) || within 600 86400 q.stay.toNat, within 0 2 q.capAction.toNat,
        decide (q.capAction ≠ 1) || within 10 1500 q.cap.toNat, flag q.maskPresent,
        decide (q.maskPresent = 0) || decide (q.mask ≠ 0)]
    | .findCredential x => [decide (x ≠ 0)]
    | .queryBay b | .setBayServiceOut b | .setBayServiceIn b | .clearStranded b => [within 0 511 b.toNat]
    | .queryFeeder f => [within 0 15 f.toNat]
    | .curtail amount duration => [true, decide (amount = 0) || within 1 86400 duration.toNat]
    | .setNoticeMask m => [within 0 63 m.toNat]
    | .setChangeThreshold t => [within 1 64 t.toNat]
    | .snapshotCounters x => [flag x]
    | _ => []
  let asksForPlan (c : Instr) : Bool := match c with
    | .book _ | .queryBay _ | .setBayServiceOut _ | .setBayServiceIn _ | .clearStranded _ | .queryFeeder _ => true
    | _ => false
  (∀ (c : Instr) (k : Nat) (f : List Byte) (s : State), requestCode c = some k → requestFrame c = some f →
    s.port.state ≠ .busy →
    let t : State := { s with port := { s.port with shifted := s.port.state.code :: List.replicate f.length 0 } }
    let free := if 0x10 ≤ k ∧ k ≤ 0x16 then le 2 s.freeSlots.length else []
    needsPlan c = asksForPlan c ∧
    (∀ n, (fields c)[n]? = some false → (∀ m, m < n → (fields c)[m]? = some true) →
      badField c = n + 1 ∧ exec (.writeTransaction false f) s =
        .next (t.withReply (portFrame (BitVec.ofNat 8 (k + 0x80)) Status.badParameter.code (le 1 (n + 1) ++ free)))) ∧
    ((∀ okay ∈ fields c, okay = true) → badField c = 0 ∧ (asksForPlan c = true → s.plan = none →
      exec (.writeTransaction false f) s =
        .next (t.withReply (portFrame (BitVec.ofNat 8 (k + 0x80)) Status.noPlan.code free))))) ∧
  ∀ (n d : Nat) (s : State), n ≤ 65535 → d ≤ 255 → s.port.state ≠ .busy →
    let f := portFrame 0x21 0 (le 2 n ++ le 1 d)
    let ends (field : Byte) : Prop := exec (.writeTransaction false f) s = .next
      (({ s with port := { s.port with shifted := s.port.state.code :: List.replicate f.length 0 } } : State).withReply
        (portFrame 0xA1 Status.badParameter.code [field]))
    (511 < n → ends 1) ∧ (n ≤ 511 → 2 ≤ d → ends 2)

/-- R173, R175, R176, R191: a read begun in REPLY shifts the reply out behind the status, 0x00 after its checksum; once the checksum is
out the port is READY and the buffer empty, and a shorter read leaves the reply in place. A read begun in READY or BUSY, and a
transaction with another command byte, shift out the status and 0x00s and change nothing else. A write begun in BUSY is ignored whole
and counted in FRAMES_DISCARDED. -/
def Obligations.ReadsAndIgnoredTransactions : Prop :=
  ∀ (count : Nat) (s : State),
    (∀ frame, s.port.state = .reply → s.port.reply = some frame →
      ∃ t, exec (.readTransaction false count) s = .next t ∧
        t.port.shifted.length = count + 1 ∧ t.port.shifted[0]? = some 0x03 ∧
        (∀ k, k < count → t.port.shifted[k + 1]? = some (frame.getD k 0)) ∧
        (frame.length ≤ count → t.port.state = .ready ∧ t.port.reply = none) ∧
        (count < frame.length → t.port.state = .reply ∧ t.port.reply = some frame) ∧
        t.port.frame = s.port.frame ∧ t.port.request = s.port.request ∧ t.port.sequence = s.port.sequence ∧
        { t with port := s.port } = s) ∧
    (s.port.state = .ready → exec (.readTransaction false count) s = .next
      { s with port := { s.port with shifted := 0x01 :: List.replicate count 0 } }) ∧
    (∀ begunBusy, begunBusy = true ∨ s.port.state = .busy → exec (.readTransaction begunBusy count) s = .next
      { s with port := { s.port with shifted := 0x02 :: List.replicate count 0 } }) ∧
    (∀ (begunBusy : Bool) (bytes : List Byte), begunBusy = true ∨ s.port.state = .busy →
      exec (.writeTransaction begunBusy bytes) s = .next
        (({ s with port := { s.port with shifted := 0x02 :: List.replicate bytes.length 0 } } : State).bump
          .framesDiscarded)) ∧
    ∀ command : Byte, command ≠ 0x01 → command ≠ 0x02 →
      exec (.invalidCommandTransaction false (some command) count) s = .next
          { s with port := { s.port with shifted := s.port.state.code :: List.replicate count 0 } } ∧
        exec (.invalidCommandTransaction false none 0) s = .next { s with port := { s.port with shifted := [] } }

/-- R177, R180, R181, 12.2: a request its owner takes ends with the port in REPLY, which keeps nothing of the request; the reply's code
is the request's plus 0x80, a reply to a reservation request opens with the number of FREE slots, and a frame of the port is its body
and five bytes and sums to 0. An owner takes the request the port has handed over and no other: with another in the port, or none,
nothing happens (notes/assumptions/2.md). -/
def Obligations.OwnersAnswerEveryRequest : Prop :=
  (∀ (c : Instr) (k : Nat) (s : State), requestCode c = some k →
    (s.port.request ≠ some c → exec c s = .next s) ∧
    (s.port.request = some c → ∃ (u : State) (status : Status) (body : List Byte), exec c s = .next u ∧ u.port.state = .reply ∧
      u.port.request = none ∧ u.port.frame = [] ∧ u.port.reply = some (portFrame (BitVec.ofNat 8 (k + 0x80)) status.code
        ((if 0x10 ≤ k ∧ k ≤ 0x16 then le 2 u.freeSlots.length else []) ++ body)))) ∧
  ∀ (first second : Byte) (body : List Byte),
    ((portFrame first second body).map (·.toNat)).sum % 256 = 0 ∧ (portFrame first second body).length = body.length + 5

/-! ### The Reservation Table (chapter 3) -/

/-- R58, R59, R60, R48, R50 to R53: a BOOK whose pin passes the bay test, or without a pin for which selection finds a bay, creates
the record in the slot at the head of the free-slot list, HELD and bound to the bay, which becomes HELD; the pledge rises, HOLD_END is
inserted, BOOKINGS_ACCEPTED counts, the bay's lane gets the new aspect; nothing else changes. -/
def Obligations.BookHoldsABay : Prop :=
  ∀ (q : BookReq) (s : State) (i : SlotNo) (rest : List SlotNo) (b : BayNo) (p : BayPlan) (plan : Plan),
    s.takes (.book q) → s.plan = some plan → s.freeSlots = i :: rest → s.findLive q.credential = none →
    (s.bay b).place = some p → (s.bay b).Lawful →
    (q.pinPresent = 0 ∧ s.select (s.wouldBe q).claim = some b ∨
      q.pinPresent ≠ 0 ∧ q.pin.toNat = b.val ∧ s.pinTest (s.wouldBe q).claim b = true) →
    let entry := longestPrefix plan.allotments q.credential
    let cls := match entry with | some (_, a) => a.cls | none => VehicleClass.ofCode q.cls.toNat
    let r : Reservation :=
      { state := .held, credential := q.credential, cls := cls
        priority := match cls with | .accessible => .high | .pub => .normal | .fleet => plan.site.fleetPriority
        large := q.large != 0, zoneMask := q.zoneMask, hold := q.hold.toNat, wait := q.wait.toNat, stay := q.stay.toNat
        cap := if q.capPresent = 0 then none else some q.cap.toNat
        bay := some b, allotment := entry.map (·.1), seq := s.bookingSeq, created := s.creations
        arrivedAt := none, session := none, sessionDone := false, stayExhausted := false, migrations := 0 }
    let t : State := { s with
      slots := s.slots.set i.val { s.slot i with record := some r, lastOutcome := none }
      freeSlots := rest
      bookingSeq := min (s.bookingSeq + 1) 0xFFFFFFFFFFFF
      creations := s.creations + 1
      bays := s.bays.set b.val { s.bay b with state := .held, aspect := .reserved, bound := some i }
      feeders := s.feeders.set p.feeder.val
        { s.feeder p.feeder with pledge := (s.feeder p.feeder).pledge + p.pmin }
      deadlines := insertByDue ⟨.holdEnd, .slot i, min (s.clock + q.hold.toNat) 0xFFFFFFFF⟩
        (s.deadlines.filter fun d => d.owner != .slot i)
      counters := (s.bump .bookingsAccepted).counters
      notices := (s.bump .bookingsAccepted).notices
      lanes := (s.aspectOrder b false).lanes }
    exec (.book q) s = .next (t.answered (.book q) .ok (t.reservationRecord i r))

/-- R60, R51, R52, R99, R100: a BOOK for which selection finds no bay, its wait limit above 0, creates the record WAITING, at its
booking-sequence place on the list of its priority, with WAIT_END; no bay changes. -/
def Obligations.BookWaitsInLine : Prop :=
  ∀ (q : BookReq) (s : State) (i : SlotNo) (rest : List SlotNo) (plan : Plan),
    s.takes (.book q) → s.plan = some plan → s.freeSlots = i :: rest → s.findLive q.credential = none →
    s.record i = none → q.pinPresent = 0 → s.select (s.wouldBe q).claim = none → q.wait ≠ 0 →
    let entry := longestPrefix plan.allotments q.credential
    let cls := match entry with | some (_, a) => a.cls | none => VehicleClass.ofCode q.cls.toNat
    let r : Reservation :=
      { state := .waiting, credential := q.credential, cls := cls
        priority := match cls with | .accessible => .high | .pub => .normal | .fleet => plan.site.fleetPriority
        large := q.large != 0, zoneMask := q.zoneMask, hold := q.hold.toNat, wait := q.wait.toNat, stay := q.stay.toNat
        cap := if q.capPresent = 0 then none else some q.cap.toNat
        bay := none, allotment := entry.map (·.1), seq := s.bookingSeq, created := s.creations
        arrivedAt := none, session := none, sessionDone := false, stayExhausted := false, migrations := 0 }
    let older : SlotNo → Bool := fun j => match s.record j with
      | some x => !(decide (r.seq < x.seq) || (r.seq == x.seq && decide (r.created < x.created)))
      | none => true
    let joined (l : List SlotNo) := l.takeWhile older ++ i :: l.dropWhile older
    let t : State := { s with
      slots := s.slots.set i.val { s.slot i with record := some r, lastOutcome := none }
      freeSlots := rest
      bookingSeq := min (s.bookingSeq + 1) 0xFFFFFFFFFFFF
      creations := s.creations + 1
      highList := if r.priority = .high then joined s.highList else s.highList
      normalList := if r.priority = .high then s.normalList else joined s.normalList
      deadlines := insertByDue ⟨.waitEnd, .slot i, min (s.clock + q.wait.toNat) 0xFFFFFFFF⟩
        (s.deadlines.filter fun d => d.owner != .slot i)
      counters := (s.bump .bookingsAccepted).counters
      notices := (s.bump .bookingsAccepted).notices }
    exec (.book q) s = .next (t.answered (.book q) .ok (t.reservationRecord i r))

/-- R58, R59, R60: BOOK's four refusals by the Reservation Table, in their order; each counts in BOOKINGS_REFUSED and creates
nothing. -/
def Obligations.BookRefusalsCreateNothing : Prop :=
  ∀ (q : BookReq) (s : State), s.takes (.book q) →
    let refused (status : Status) (body : List Byte) : Prop :=
      exec (.book q) s = .next ((s.bump .bookingsRefused).answered (.book q) status body)
    (s.freeSlots = [] → refused .tableFull []) ∧
    (∀ i, s.freeSlots ≠ [] → s.findLive q.credential = some i →
      refused .credentialInUse (le 2 (i.val + 1024 * (s.slot i).generation.val))) ∧
    (∀ b : BayNo, s.freeSlots ≠ [] → s.findLive q.credential = none → q.pinPresent ≠ 0 → q.pin.toNat = b.val →
      s.pinTest (s.wouldBe q).claim b = false →
      refused .bayTaken (le 1 (s.bay b).state.code ++ le 1 (((s.bay b).reason.map (·.code)).getD 0))) ∧
    (s.freeSlots ≠ [] → s.findLive q.credential = none → q.pinPresent = 0 → s.select (s.wouldBe q).claim = none →
      q.wait = 0 → refused .noBay [])

/-- R61, R62, R63, R64: an AMEND with no field present changes nothing; new hold seconds at a HELD record replace the old, and a HOLD_END
it owns is restarted; a new demand cap is stored or removed, with an allocation run for a CHARGING record and for no other. Each is
answered OK with the record as it then stands. An AMEND with several fields, each allowed in the record's state, applies them in the order
hold, stay, cap, mask: it ends as the requests with one of the fields each, asked one after another, would, with the reply of the last.
One whose mask would unbind the record with nothing to replace the bay is answered NO_BAY, and no field is changed. -/
def Obligations.AmendAppliesItsFieldsInOrder : Prop :=
  (∀ (q : AmendReq) (s : State) (i : SlotNo) (r : Reservation), s.takes (.amend q) → s.resolve q.ticket = .live i r →
    q.stayPresent = 0 → q.maskPresent = 0 →
    let at_ (x : Reservation) : State := { s with slots := s.slots.set i.val { s.slot i with record := some x } }
    (q.holdPresent = 0 → q.capAction = 0 →
      exec (.amend q) s = .next (s.answered (.amend q) .ok (s.reservationRecord i r))) ∧
    (q.holdPresent ≠ 0 → q.capAction = 0 → r.state = .held →
      let x := { r with hold := q.hold.toNat }
      let t : State := { at_ x with
        deadlines :=
          if (s.deadlineOf (.slot i)).map (·.kind) = some .holdEnd then
            insertByDue ⟨.holdEnd, .slot i, min (s.clock + q.hold.toNat) 0xFFFFFFFF⟩
              (s.deadlines.filter fun d => d.owner != .slot i)
          else s.deadlines }
      exec (.amend q) s = .next (t.answered (.amend q) .ok (t.reservationRecord i x))) ∧
    (q.holdPresent = 0 → q.capAction ≠ 0 →
      let x := { r with cap := if q.capAction = 1 then some q.cap.toNat else none }
      let t := if r.state = .charging then (at_ x).allocationRun else at_ x
      exec (.amend q) s = .next (t.answered (.amend q) .ok (t.reservationRecord i x)))) ∧
  ∀ (q : AmendReq) (s : State) (i : SlotNo) (r : Reservation), s.takes (.amend q) → s.resolve q.ticket = .live i r →
    (q.holdPresent ≠ 0 → r.state = .held) → (q.stayPresent ≠ 0 → r.state = .engaged ∨ r.state = .charging) →
    (q.maskPresent ≠ 0 → r.state = .waiting ∨ r.state = .held) →
    let strands := q.maskPresent ≠ 0 ∧ r.state = .held ∧ r.wait = 0 ∧ ∃ y p, r.bay = some y ∧ (s.bay y).place = some p ∧
      q.mask.getLsbD p.zone.val = false ∧ s.select { ({ r with zoneMask := q.mask } : Reservation).claim with leaving := some y } = none
    let ask (u : State) (c : AmendReq) : Host.Outcome State Fault Refusal :=
      exec (.amend c) { u with port := { u.port with request := some (.amend c) } }
    let none_ : AmendReq := { q with holdPresent := 0, stayPresent := 0, capAction := 0, maskPresent := 0 }
    (strands → exec (.amend q) s = .next (s.answered (.amend q) .noBay [])) ∧
    (¬strands → (∀ b, r.bay = some b → (s.bay b).place ≠ none ∧ (s.bay b).Lawful) → ∃ s₁ s₂ s₃ s₄,
      ask s { none_ with holdPresent := q.holdPresent } = .next s₁ ∧ ask s₁ { none_ with stayPresent := q.stayPresent } = .next s₂ ∧
      ask s₂ { none_ with capAction := q.capAction } = .next s₃ ∧ ask s₃ { none_ with maskPresent := q.maskPresent } = .next s₄ ∧
      exec (.amend q) s = .next s₄)

/-- R62, R71, R35: a new stay limit at an ENGAGED or CHARGING record, counted from arrived at: STAY_END at the new end while that lies
after now. Where the new end is past there is no entry and the stay runs out within the request, with no change mark: stay exhausted is
set again; an ENGAGED record of an ENGAGED bay gets its grace unless it runs; an ENGAGED record of an OUT_OF_SERVICE bay no grace; a
CHARGING record's session ends with a STOP, with grace at a CHARGING bay and none at an OUT_OF_SERVICE one, and an allocation run
follows (taken last: notes/assumptions/27.md). -/
def Obligations.AmendStay : Prop :=
  ∀ (q : AmendReq) (s : State) (i : SlotNo) (r : Reservation) (arrived : Nat), s.takes (.amend q) →
    s.resolve q.ticket = .live i r → q.holdPresent = 0 → q.stayPresent ≠ 0 → q.capAction = 0 → q.maskPresent = 0 →
    r.arrivedAt = some arrived →
    let last := min (arrived + q.stay.toNat) 0xFFFFFFFF
    let others := s.deadlines.filter fun d => d.owner != .slot i
    let at_ (x : Reservation) (ds : List Deadline) : State := { s with
      slots := s.slots.set i.val { s.slot i with record := some x }, deadlines := ds }
    let ends (t : State) (x : Reservation) : Prop :=
      exec (.amend q) s = .next (t.answered (.amend q) .ok (t.reservationRecord i x))
    let grace (plan : Plan) (b : BayNo) (ds : List Deadline) : List Deadline :=
      insertByDue ⟨.graceEnd, .bay b, min (s.clock + plan.site.graceTime) 0xFFFFFFFF⟩ (ds.filter fun d => d.owner != .bay b)
    let x := { r with stay := q.stay.toNat, stayExhausted := true }
    (r.state = .engaged ∨ r.state = .charging → s.clock < last →
      let y := { x with stayExhausted := false }
      ends (at_ y (insertByDue ⟨.stayEnd, .slot i, last⟩ others)) y) ∧
    ∀ (b : BayNo) (plan : Plan), last ≤ s.clock → r.bay = some b → s.plan = some plan →
      (r.state = .engaged → (s.bay b).state = .engaged →
        ends (at_ x (if (s.deadlineOf (.bay b)).isSome then others else grace plan b others)) x) ∧
      (r.state = .engaged → (s.bay b).state = .outOfService → ends (at_ x others) x) ∧
      (r.state = .charging → (s.bay b).bound = some i → (s.bay b).Lawful →
        let y := { x with state := .engaged, session := none, sessionDone := true }
        let u := (at_ x others).endSession b true false
        ((s.bay b).state = .charging → ends ({ u with deadlines := grace plan b u.deadlines } : State).allocationRun y) ∧
        ((s.bay b).state = .outOfService → ends u.allocationRun y))

/-- R61, R64, R88, R99: a new zone mask. At a WAITING record it stores the mask, and holds the bay selection now finds (the record off
its list, WAIT_END gone, HOLD_END inserted, no mark, PLACED_FROM_WAITING not counted). At a HELD record whose bay lies inside it, it
stores the mask. A HELD record whose bay lies outside it is unbound and held at the bay selection finds, the record counted as unbound,
or becomes WAITING at its place in line with its WAIT_END; then the left bay, if it was HELD, is freed and offered, and if it was
identifying goes on without its kept hold. With no other bay and no wait limit the request is refused NO_BAY with no field changed. -/
def Obligations.AmendMask : Prop :=
  ∀ (q : AmendReq) (s : State) (i : SlotNo) (r : Reservation), s.takes (.amend q) → s.resolve q.ticket = .live i r →
    q.holdPresent = 0 → q.stayPresent = 0 → q.capAction = 0 → q.maskPresent ≠ 0 →
    let others := s.deadlines.filter fun d => d.owner != .slot i
    let at_ (x : Reservation) : State := { s with slots := s.slots.set i.val { s.slot i with record := some x } }
    let x := { r with zoneMask := q.mask }
    let holdEnd : Deadline := ⟨.holdEnd, .slot i, min (s.clock + r.hold) 0xFFFFFFFF⟩
    (∀ (b : BayNo) (p : BayPlan), r.state = .waiting → r.bay = none → s.select x.claim = some b →
      (s.bay b).place = some p → (s.bay b).Lawful →
      let y := { x with state := .held, bay := some b }
      let t : State := { at_ y with
        highList := s.highList.filter (· != i), normalList := s.normalList.filter (· != i)
        bays := s.bays.set b.val { s.bay b with state := .held, aspect := .reserved, bound := some i }
        feeders := s.feeders.set p.feeder.val
          { s.feeder p.feeder with pledge := (s.feeder p.feeder).pledge + p.pmin }
        deadlines := insertByDue holdEnd others
        lanes := (s.aspectOrder b false).lanes }
      exec (.amend q) s = .next (t.answered (.amend q) .ok (t.reservationRecord i y))) ∧
    (r.state = .waiting → r.bay = none → s.select x.claim = none →
      exec (.amend q) s = .next ((at_ x).answered (.amend q) .ok ((at_ x).reservationRecord i x))) ∧
    (∀ (b : BayNo) (p : BayPlan), r.state = .held → r.bay = some b → (s.bay b).place = some p →
      q.mask.getLsbD p.zone.val = true →
      exec (.amend q) s = .next ((at_ x).answered (.amend q) .ok ((at_ x).reservationRecord i x))) ∧
    ∀ (y : BayNo) (p : BayPlan), r.state = .held → r.bay = some y → (s.bay y).place = some p →
      q.mask.getLsbD p.zone.val = false →
      let left (z : Reservation) (ds : List Deadline) : State := { at_ z with
        bays := s.bays.set y.val { s.bay y with bound := none, keptHold := false }
        feeders := s.feeders.set p.feeder.val
          { s.feeder p.feeder with pledge := (s.feeder p.feeder).pledge - p.pmin }
        deadlines := ds }
      let ends (u : State) : Prop :=
        let t := if (s.bay y).state = .held then (u.enter y .free).offer y else u
        ∃ z, t.record i = some z ∧
          exec (.amend q) s = .next ((State.aspectOrders s t).answered (.amend q) .ok (t.reservationRecord i z))
      let found := s.select { x.claim with leaving := some y }
      (∀ (b : BayNo) (g : BayPlan), found = some b → (s.bay b).place = some g →
        let u := left { x with state := .held, bay := some b } (insertByDue holdEnd others)
        ends { u with
          bays := u.bays.set b.val { u.bay b with state := .held, aspect := .reserved, reason := none, bound := some i }
          feeders := u.feeders.set g.feeder.val
            { u.feeder g.feeder with pledge := (u.feeder g.feeder).pledge + g.pmin } }) ∧
      (found = none → r.wait ≠ 0 →
        let older : SlotNo → Bool := fun j => match s.record j with
          | some a => !(decide (r.seq < a.seq) || (r.seq == a.seq && decide (r.created < a.created)))
          | none => true
        let joined (l : List SlotNo) := l.takeWhile older ++ i :: l.dropWhile older
        ends { left { x with state := .waiting, bay := none }
            (insertByDue ⟨.waitEnd, .slot i, min (s.clock + r.wait) 0xFFFFFFFF⟩ others) with
          highList := if r.priority = .high then joined s.highList else s.highList
          normalList := if r.priority = .high then s.normalList else joined s.normalList }) ∧
      (found = none → r.wait = 0 → exec (.amend q) s = .next (s.answered (.amend q) .noBay []))

/-- R49, R61, R65, R66: AMEND, CANCEL and RELEASE of a ticket that is not valid are answered STALE_TICKET, and of a record in a state
they do not take WRONG_STATE; either way nothing else changes. -/
def Obligations.StaleTicketsAndWrongStatesChangeNothing : Prop :=
  (∀ (t : BitVec 16) (s : State), (∀ i r, s.resolve t ≠ .live i r) →
    (s.takes (.cancel t) → exec (.cancel t) s = .next (s.answered (.cancel t) .staleTicket [])) ∧
    (s.takes (.release t) → exec (.release t) s = .next (s.answered (.release t) .staleTicket [])) ∧
    ∀ q : AmendReq, q.ticket = t → s.takes (.amend q) →
      exec (.amend q) s = .next (s.answered (.amend q) .staleTicket [])) ∧
  ∀ (t : BitVec 16) (s : State) (i : SlotNo) (r : Reservation), s.resolve t = .live i r →
    (s.takes (.cancel t) → r.state = .engaged ∨ r.state = .charging ∨ r.state = .overstay →
      exec (.cancel t) s = .next (s.answered (.cancel t) .wrongState [])) ∧
    (s.takes (.release t) → r.state = .waiting ∨ r.state = .held →
      exec (.release t) s = .next (s.answered (.release t) .wrongState [])) ∧
    ∀ q : AmendReq, q.ticket = t → s.takes (.amend q) →
      (q.holdPresent ≠ 0 ∧ r.state ≠ .held ∨
        q.stayPresent ≠ 0 ∧ r.state ≠ .engaged ∧ r.state ≠ .charging ∨
        q.maskPresent ≠ 0 ∧ r.state ≠ .waiting ∧ r.state ≠ .held) →
      exec (.amend q) s = .next (s.answered (.amend q) .wrongState [])

/-- R65, R54: CANCEL of a WAITING record retires it CANCELLED: the slot is FREE at the tail of the free-slot list with its outcome,
its generation one on and its mark set, the list entry and the deadline are gone, CHANGES is evaluated against the new marked count,
and nothing else changes. CANCEL of a HELD record retires it, and frees and offers a HELD bay; at a bay identifying with kept hold the
bay goes on without it. -/
def Obligations.CancelRetiresTheRecord : Prop :=
  ∀ (t : BitVec 16) (s : State) (i : SlotNo) (r : Reservation), s.takes (.cancel t) → s.resolve t = .live i r →
    (r.state = .waiting → r.bay = none →
      let u : State := { s with
        slots := s.slots.set i.val
          { record := none, lastOutcome := some .cancelled, mark := true
            generation := ⟨((s.slot i).generation.val + 1) % 64, by omega⟩ }
        freeSlots := s.freeSlots ++ [i]
        highList := s.highList.filter (· != i), normalList := s.normalList.filter (· != i)
        deadlines := s.deadlines.filter fun d => d.owner != .slot i }
      exec (.cancel t) s = .next
        (({ u with notices := s.notices.evaluate u.markedCount } : State).answered (.cancel t) .ok [])) ∧
    (∀ b : BayNo, r.state = .held → r.bay = some b → (s.bay b).state = .held →
      exec (.cancel t) s = .next
        ((State.aspectOrders s (((s.retire i .cancelled).enter b .free).offer b)).answered (.cancel t) .ok [])) ∧
    (∀ b : BayNo, r.state = .held → r.bay = some b → (s.bay b).state = .identifying →
      exec (.cancel t) s = .next ((s.retire i .cancelled).answered (.cancel t) .ok []))

/-- R66, R54, R53: RELEASE of an ENGAGED or OVERSTAY record retires it RELEASED and answers its outcome. At a bay in service the bay
becomes BLOCKED, its deadline is removed and BAY_ALERT is raised; at an OUT_OF_SERVICE bay the bay keeps its state and no flag is
raised. The pledge falls by pmin. A CHARGING record's session ends with a STOP first, and an allocation run follows. -/
def Obligations.ReleaseRetiresTheRecord : Prop :=
  ∀ (t : BitVec 16) (s : State) (i : SlotNo) (r : Reservation) (b : BayNo) (p : BayPlan), s.takes (.release t) →
    s.resolve t = .live i r → r.bay = some b → (s.bay b).bound = some i → (s.bay b).place = some p → (s.bay b).Lawful →
    let u : State := { s with
      slots := s.slots.set i.val
        { record := none, lastOutcome := some .released, mark := true
          generation := ⟨((s.slot i).generation.val + 1) % 64, by omega⟩ }
      freeSlots := s.freeSlots ++ [i]
      highList := s.highList.filter (· != i), normalList := s.normalList.filter (· != i)
      feeders := s.feeders.set p.feeder.val
        { s.feeder p.feeder with pledge := (s.feeder p.feeder).pledge - p.pmin } }
    let kept := s.deadlines.filter fun d => d.owner != .slot i
    let bay := { s.bay b with bound := none, keptHold := false }
    (r.state = .engaged ∧ (s.bay b).state = .engaged ∨ r.state = .overstay ∧ (s.bay b).state = .overstay →
      exec (.release t) s = .next (({ u with
        bays := s.bays.set b.val { bay with state := .blocked }
        deadlines := kept.filter fun d => d.owner != .bay b
        notices := (s.notices.evaluate u.markedCount).raise .bayAlert } : State).answered (.release t) .ok [7])) ∧
    (r.state = .engaged ∨ r.state = .overstay → (s.bay b).state = .outOfService →
      exec (.release t) s = .next (({ u with
        bays := s.bays.set b.val bay
        deadlines := kept
        notices := s.notices.evaluate u.markedCount } : State).answered (.release t) .ok [7])) ∧
    (r.state = .charging → exec (.release t) s = .next
      ((State.aspectOrders s
        (((s.endSession b true false).retire i .released).settleReleased b).allocationRun).answered (.release t) .ok [7]))

/-- R49, R67, 12.1, 12.4: QUERY RESERVATION resolves its ticket (slot + 1024 × generation) by the table of R49 and changes nothing. The
record of a valid ticket has 49 bytes: its ticket, the fields of R46 and R47 at their places, its deadline, and the list it waits in
with its position from the head; an absent value is 0, an absent bay 0xFFFF, an absent allotment entry 0xFF. -/
def Obligations.QueryReservationResolvesTheTicket : Prop :=
  (∀ (i : SlotNo) (g : Fin 64) (s : State),
    let t := BitVec.ofNat 16 (i.val + 1024 * g.val)
    s.takes (.queryReservation t) →
    (∀ r, s.record i = some r → g = (s.slot i).generation →
      exec (.queryReservation t) s = .next (s.answered (.queryReservation t) .ok (s.reservationRecord i r))) ∧
    (∀ o, s.record i = none → (s.slot i).lastOutcome = some o → g.val = ((s.slot i).generation.val + 63) % 64 →
      exec (.queryReservation t) s = .next (s.answered (.queryReservation t) .retired (le 1 o.code))) ∧
    ((∃ r, s.record i = some r) ∧ g ≠ (s.slot i).generation ∨
        s.record i = none ∧ ((s.slot i).lastOutcome = none ∨ g.val ≠ ((s.slot i).generation.val + 63) % 64) →
      exec (.queryReservation t) s = .next (s.answered (.queryReservation t) .staleTicket []))) ∧
  (∀ (i : SlotNo) (r : Reservation) (s : State),
    let x := s.reservationRecord i r
    let or0 (v : Option Nat) : Nat := match v with | some n => n | none => 0
    let bit (n : Nat) (y : Bool) : Nat := if y then n else 0
    let d := s.deadlineOf (.slot i)
    x.length = 49 ∧ fieldAt x 0 2 = i.val + 1024 * (s.slot i).generation.val ∧ fieldAt x 2 1 = r.state.code ∧
    fieldAt x 3 5 = r.credential.toNat ∧ fieldAt x 8 1 = r.cls.code ∧ fieldAt x 9 1 = r.priority.code ∧
    fieldAt x 10 1 = bit 1 r.large ∧ fieldAt x 11 1 = r.zoneMask.toNat ∧ fieldAt x 12 2 = r.hold % 65536 ∧
    fieldAt x 14 2 = r.wait % 65536 ∧ fieldAt x 16 4 = r.stay % 4294967296 ∧ fieldAt x 20 2 = or0 r.cap % 65536 ∧
    fieldAt x 22 2 = (match r.bay with | some b => b.val | none => 0xFFFF) ∧
    fieldAt x 24 1 = (match r.allotment with | some n => n % 256 | none => 0xFF) ∧
    fieldAt x 25 6 = r.seq % 281474976710656 ∧
    fieldAt x 31 1 = bit 1 r.sessionDone + bit 2 r.stayExhausted + bit 4 (s.slot i).mark + bit 8 r.arrivedAt.isSome +
      bit 16 r.session.isSome ∧
    fieldAt x 32 4 = or0 r.arrivedAt % 4294967296 ∧ fieldAt x 36 4 = or0 r.session % 4294967296 ∧
    fieldAt x 40 1 = r.migrations % 256 ∧ fieldAt x 41 1 = or0 (d.map (·.kind.code)) ∧
    fieldAt x 42 4 = or0 (d.map (·.due)) % 4294967296 ∧
    (∀ front back, s.highList = front ++ i :: back → i ∉ front →
      fieldAt x 46 1 = 1 ∧ fieldAt x 47 2 = (front.length + 1) % 65536) ∧
    (∀ front back, i ∉ s.highList → s.normalList = front ++ i :: back → i ∉ front →
      fieldAt x 46 1 = 2 ∧ fieldAt x 47 2 = (front.length + 1) % 65536) ∧
    (i ∉ s.highList → i ∉ s.normalList → fieldAt x 46 1 = 0 ∧ fieldAt x 47 2 = 0)) ∧
  [ResState.waiting, .held, .engaged, .charging, .overstay].map (·.code) = [1, 2, 3, 4, 5] ∧
  [VehicleClass.pub, .accessible, .fleet].map (·.code) = [0, 1, 2] ∧ [Priority.high, .normal].map (·.code) = [0, 1] ∧
  [DeadlineKind.holdEnd, .waitEnd, .stayEnd, .identifyEnd, .graceEnd, .curtailEnd].map (·.code) = [1, 2, 3, 4, 5, 6] ∧
  [Ending.completed, .overstayed, .leftUncharged, .noShow, .waitExpired, .cancelled, .released, .leftUnseen, .reset].map
    (·.code) = [1, 2, 3, 4, 5, 6, 7, 8, 9]

/-- R68: FIND CREDENTIAL answers the live record that carries the credential with its ticket, state and bay or none, and NO_SUCH where
none carries it (retired records are not searched); the checks answer a frame with credential 0 BAD_PARAMETER, field 1. It changes
nothing. -/
def Obligations.FindCredentialFindsTheLiveRecord : Prop :=
  ∀ (c : Credential) (s : State),
    s.judgeFrame (portFrame 0x15 0 (le 5 0)) = .answer .badParameter (1 :: le 2 s.freeSlots.length) ∧
    (∀ (i : SlotNo) (r : Reservation), s.takes (.findCredential c) → s.record i = some r → r.credential = c →
      (∀ j x, s.record j = some x → x.credential = c → j = i) →
      exec (.findCredential c) s = .next (s.answered (.findCredential c) .ok
        (le 2 (i.val + 1024 * (s.slot i).generation.val) ++ le 1 r.state.code ++
          le 2 (match r.bay with | some b => b.val | none => 0xFFFF)))) ∧
    (s.takes (.findCredential c) → (∀ j x, s.record j = some x → x.credential ≠ c) →
      exec (.findCredential c) s = .next (s.answered (.findCredential c) .noSuch []))

/-- R57, R56, R189, 12.2: LIST CHANGES returns the 32 lowest marked slots in ascending order with their entries, clears the marks of
those and of no other slot, hands the new marked count over for CHANGES, answers the number of entries and that count, and changes
nothing else. The entry of a live record is its ticket, 0, its state and its bay or none; that of a FREE slot is its retired ticket, 1,
its outcome and a bay of none, which is the model's choice (notes/assumptions/17.md). -/
def Obligations.ListChangesReturnsTheLowestMarks : Prop :=
  ∀ s : State, s.takes .listChanges → ∃ t : State,
    let listed := ((List.finRange 1024).filter fun i => (s.slot i).mark).take 32
    let ticket (i : SlotNo) (generation : Nat) : List Byte := le 2 (i.val + 1024 * (generation % 64))
    let entry (i : SlotNo) : List Byte := match s.record i with
      | some r => ticket i (s.slot i).generation.val ++ [0] ++ le 1 r.state.code ++
          (match r.bay with | some b => le 2 b.val | none => [0xFF, 0xFF])
      | none => ticket i ((s.slot i).generation.val + 63) ++ [1] ++
          (match (s.slot i).lastOutcome with | some o => le 1 o.code | none => [0]) ++ [0xFF, 0xFF]
    exec .listChanges s = .next (t.answered .listChanges .ok
      (le 1 listed.length ++ le 2 t.markedCount ++ (listed.map entry).flatten)) ∧
    (∀ i, t.slot i = if i ∈ listed then { s.slot i with mark := false } else s.slot i) ∧
    t.markedCount + listed.length = s.markedCount ∧
    t.notices = s.notices.evaluate t.markedCount ∧ { t with slots := s.slots, notices := s.notices } = s

/-- R54, R53, R49, R50: the seven steps of a retirement, its bay's new state left to the cause; the ticket of the retired record then
answers its outcome. -/
def Obligations.RetirementTakesItsSteps : Prop :=
  ∀ (s : State) (i : SlotNo) (r : Reservation) (o : Ending), s.record i = some r →
    let u : State := { s with
      slots := s.slots.set i.val
        { record := none, lastOutcome := some o, mark := true
          generation := ⟨((s.slot i).generation.val + 1) % 64, by omega⟩ }
      freeSlots := s.freeSlots ++ [i]
      highList := s.highList.filter (· != i), normalList := s.normalList.filter (· != i)
      deadlines := s.deadlines.filter fun d => d.owner != .slot i }
    let notices := s.notices.evaluate u.markedCount
    (r.bay = none → s.retire i o = { u with notices := notices }) ∧
    (∀ (b : BayNo) (p : BayPlan), r.bay = some b → (s.bay b).place = some p →
      s.retire i o = { u with
        notices := notices
        bays := s.bays.set b.val { s.bay b with bound := none, keptHold := false }
        feeders := s.feeders.set p.feeder.val
          { s.feeder p.feeder with pledge := (s.feeder p.feeder).pledge - p.pmin } }) ∧
    ∀ t : BitVec 16, t.toNat = i.val + 1024 * (s.slot i).generation.val → (s.retire i o).resolve t = .retired o

/-! ### Arrival matching, selection and the waiting lists (chapters 4 and 5) -/

/-- R75: the longest-prefix search answers an entry exactly when one matches, and then the first of the greatest length among the
matching ones; an entry matches when its length's most significant bits of the credential are its prefix's. -/
def Obligations.TheLongestMatchingPrefixDecides : Prop :=
  ∀ (entries : List Allotment) (c : Credential),
    let matches_ (a : Allotment) : Prop := ∀ k, k < a.length → c.getMsbD k = a.leading.getMsbD k
    (longestPrefix entries c = none ↔ ∀ a ∈ entries, ¬matches_ a) ∧
    ∀ n a, longestPrefix entries c = some (n, a) →
      entries[n]? = some a ∧ matches_ a ∧
        ∀ m b, entries[m]? = some b → matches_ b → b.length < a.length ∨ b.length = a.length ∧ n ≤ m

/-- R76, R78, R79, R80, R82: what the placement test, the bay test of a pinned BOOK and the bay test of a presentation ask of a
planned bay: stage 1 membership where it applies, the state, and the four other masks. -/
def Obligations.TheTestsAreTheMasks : Prop :=
  ∀ (s : State) (c : Claim) (b : BayNo) (p : BayPlan) (plan : Plan), s.plan = some plan → (s.bay b).place = some p →
    let covers (a : Allotment) : Prop := a.firstBay ≤ b.val ∧ b.val < a.firstBay + a.count
    let exclusive (n : Nat) : Prop := ∃ a, plan.allotments[n]? = some a ∧ a.exclusive = true ∧ covers a
    let member : Prop := match c.allotment with
      | some n => ∃ a, plan.allotments[n]? = some a ∧ covers a
      | none => c.zoneMask.getLsbD p.zone.val = true
    let kind : Prop := match p.kind with
      | .accessible => c.cls = .accessible ∧ c.large = false
      | .standard => c.large = false
      | .large => True
    let admitted : Prop := (∀ n, ¬exclusive n) ∨ ∃ n, c.allotment = some n ∧ exclusive n
    let pledge := (s.feeder p.feeder).pledge - match c.leaving with
      | some y => if s.feederOf y = some p.feeder then s.pminOf y else 0
      | none => 0
    let limit := match plan.feeders.find? (·.number == p.feeder) with | some f => f.limit | none => 0
    let masks : Prop := plan.zones[p.zone.val].closed = false ∧ kind ∧ admitted ∧ pledge + p.pmin ≤ limit
    (s.placementTest c b = true ↔ member ∧ (s.bay b).state = .free ∧ masks) ∧
    (s.pinTest c b = true ↔ (s.bay b).state = .free ∧ masks) ∧
    (s.presentationTest c b = true ↔
      ((s.bay b).state = .identifying ∧ (s.bay b).keptHold = false ∨ (s.bay b).state = .blocked) ∧ masks)

/-- R77, R81: selection answers none exactly when no bay passes stages 1 and 2, and else the bay that passes them and ranks first: by
kind (ACCESSIBLE, STANDARD, LARGE; stage 2 leaves an ACCESSIBLE bay to a record of that class alone), then by the larger spare F − P of
its feeder, P less pmin of the bay the record leaves there, then by the lower number. -/
def Obligations.SelectionReturnsTheFirstInRank : Prop :=
  ∀ (s : State) (c : Claim),
    let rank : Kind → Nat := fun k => match k with | .accessible => 0 | .standard => 1 | .large => 2
    let spare (p : BayPlan) : Nat := s.feederLimit p.feeder - ((s.feeder p.feeder).pledge - match c.leaving with
      | some y => if s.feederOf y = some p.feeder then s.pminOf y else 0
      | none => 0)
    (s.select c = none ↔ ∀ b, s.placementTest c b = false) ∧
    ∀ b, s.select c = some b → s.placementTest c b = true ∧
      (∀ p, (s.bay b).place = some p → p.kind = .accessible → c.cls = .accessible) ∧
      ∀ x p q, x ≠ b → s.placementTest c x = true → (s.bay b).place = some p → (s.bay x).place = some q →
        rank p.kind < rank q.kind ∨ p.kind = q.kind ∧ (spare q < spare p ∨ spare q = spare p ∧ b < x)

/-- R102 to R104, R106: an offer scans both lists for their first fitting record and serves one of the two candidates by the table of
R104 (with a NORMAL candidate and no HIGH one the counter stays as it is, at n too, which is the model's reading:
notes/assumptions/11.md). The record served becomes HELD at the bay with the pledge, HOLD_END, mark and count of R106; a bay nobody
fits stays as it is. -/
def Obligations.AnOfferServesOneCandidate : Prop :=
  (∀ (ratio : RatioSetting) (count : Nat) (hs ks : SlotNo) (high normal : Option SlotNo),
    (∀ n, ratio.bound = some n ↔ ratio = .eightToOne ∧ n = 8 ∨ ratio = .fourToOne ∧ n = 4 ∨ ratio = .twoToOne ∧ n = 2) ∧
    serveRatio .strict count (some hs) normal = (some hs, count) ∧
    serveRatio .strict count none (some ks) = (some ks, count) ∧
    (∀ n, ratio.bound = some n → count < n → serveRatio ratio count (some hs) normal = (some hs, count + 1)) ∧
    (∀ n, ratio.bound = some n → serveRatio ratio n (some hs) (some ks) = (some ks, 0)) ∧
    (∀ n, ratio.bound = some n → serveRatio ratio n (some hs) none = (some hs, n)) ∧
    serveRatio ratio count none (some ks) = (some ks, count) ∧ serveRatio ratio count none none = (none, count)) ∧
  ∀ (s : State) (b : BayNo) (p : BayPlan) (plan : Plan), s.plan = some plan → (s.bay b).place = some p →
    let served := serveRatio plan.site.ratio s.ratioCount (s.highList.find? (s.fits b)) (s.normalList.find? (s.fits b))
    (served.1 = none → s.offer b = { s with ratioCount := served.2 }) ∧
    ∀ (i : SlotNo) (r : Reservation), served.1 = some i → s.record i = some r →
      let u : State := { s with
        ratioCount := served.2
        highList := s.highList.filter (· != i), normalList := s.normalList.filter (· != i)
        slots := s.slots.set i.val
          { s.slot i with record := some { r with state := .held, bay := some b }, mark := true }
        bays := s.bays.set b.val { s.bay b with state := .held, aspect := .reserved, reason := none, bound := some i }
        feeders := s.feeders.set p.feeder.val
          { s.feeder p.feeder with pledge := (s.feeder p.feeder).pledge + p.pmin }
        deadlines := insertByDue ⟨.holdEnd, .slot i, min (s.clock + r.hold) 0xFFFFFFFF⟩
          (s.deadlines.filter fun d => d.owner != .slot i) }
      s.offer b = ({ u with notices := s.notices.evaluate u.markedCount } : State).bump .placedFromWaiting

/-- R86: a record engaged at a bay: bound there if it was not, IDENTIFY_END gone, both ENGAGED, arrived at now, STAY_END at now plus
the stay limit, the mark set; nothing else changes. The bay's lamp is IN_USE. -/
def Obligations.EngagingBindsRecordAndBay : Prop :=
  ∀ (s : State) (i : SlotNo) (b : BayNo) (r : Reservation) (p : BayPlan), s.record i = some r → (s.bay b).place = some p →
    let pledge := (s.feeder p.feeder).pledge
    let u : State := { s with
      slots := s.slots.set i.val
        { s.slot i with
          record := some { r with state := .engaged, bay := some b, arrivedAt := some s.clock }, mark := true }
      bays := s.bays.set b.val
        { s.bay b with
          state := .engaged, aspect := .inUse, reason := none, keptHold := false
          bound := if r.bay = some b then (s.bay b).bound else some i }
      feeders := s.feeders.set p.feeder.val
        { s.feeder p.feeder with pledge := if r.bay = some b then pledge else pledge + p.pmin }
      deadlines := insertByDue ⟨.stayEnd, .slot i, min (s.clock + r.stay) 0xFFFFFFFF⟩
        ((s.deadlines.filter fun d => d.owner != .bay b).filter fun d => d.owner != .slot i) }
    s.engage i b = { u with notices := s.notices.evaluate u.markedCount }

/-- R83 to R93, R51, R52: a presentation by its case. It is ignored but at an IDENTIFYING or BLOCKED bay. Case 1: the record a kept hold
is for is engaged. Case 2: a record HELD at another bay Y that passes the bay test, counted as unbound, is engaged here, its migrations
one more; Y is freed and offered if it was HELD, or identifies on without its kept hold. Case 3: a WAITING record that passes is engaged
off its list. Case 4: a record already at a bay is a duplicate. Case 5: with no record, an entry whose range holds the bay admits a new
record of its class that passes. Case 6: with no entry, a walk-in exactly under the five conditions of R92. Case 7: at a bay held for
someone else the vehicle is refused, the bay is BLOCKED with BAY_ALERT and the hold is re-homed. Each failure is a refuse flash and
ARRIVALS_REFUSED. -/
def Obligations.PresentationsAreJudged : Prop :=
  ∀ (s : State) (b : BayNo) (c : Credential) (plan : Plan), s.plan = some plan →
    let identifying := (s.bay b).state = .identifying
    let unheld := identifying ∧ (s.bay b).keptHold = false ∨ (s.bay b).state = .blocked
    let refused := (s.aspectOrder b true).bump .arrivalsRefused
    let withRecord (u : State) (i : SlotNo) (r : Reservation) : State := { u with
      slots := u.slots.set i.val { u.slot i with record := some r } }
    let others (i : SlotNo) := s.deadlines.filter fun d => d.owner != .slot i
    let arrival (cls : VehicleClass) (entry : Option Nat) : Reservation :=
      { state := .waiting, credential := c, cls := cls, large := false, zoneMask := 0xFF
        priority := match cls with | .accessible => .high | .pub => .normal | .fleet => plan.site.fleetPriority
        hold := plan.site.defaultHold, wait := plan.site.defaultWait, stay := plan.site.defaultStay, cap := none
        bay := none, allotment := entry, seq := s.bookingSeq, created := s.creations, arrivedAt := none
        session := none, sessionDone := false, stayExhausted := false, migrations := 0 }
    let created (i : SlotNo) (rest : List SlotNo) (r : Reservation) : State := { s with
      slots := s.slots.set i.val { s.slot i with record := some r, lastOutcome := none }
      freeSlots := rest, bookingSeq := min (s.bookingSeq + 1) 0xFFFFFFFFFFFF, creations := s.creations + 1 }
    (¬identifying → (s.bay b).state ≠ .blocked → s.present b c = s) ∧
    (∀ i, identifying → (s.bay b).keptHold = true → s.findLive c = some i → (s.bay b).bound = some i →
      s.present b c = (s.engage i b).bump .arrivalsMatched) ∧
    (∀ i r y p, unheld → s.findLive c = some i → s.record i = some r → r.state = .held → r.bay = some y →
      (s.bay y).place = some p →
      if s.presentationTest { r.claim with leaving := some y } b = true then
        let left : State := { withRecord s i { r with bay := none } with
          bays := s.bays.set y.val { s.bay y with bound := none, keptHold := false }
          feeders := s.feeders.set p.feeder.val
            { s.feeder p.feeder with pledge := (s.feeder p.feeder).pledge - p.pmin }
          deadlines := others i }
        let here := left.engage i b
        ∃ z, here.record i = some z ∧
          let moved := (withRecord here i { z with migrations := min (z.migrations + 1) 255 }).bump .migrations
          s.present b c = if (s.bay y).state = .held then (moved.enter y .free).offer y else moved
      else s.present b c = refused) ∧
    (∀ i r, unheld → s.findLive c = some i → s.record i = some r → r.state = .waiting →
      s.present b c =
        if s.presentationTest r.claim b = true then
          (({ s with
            highList := s.highList.filter (· != i), normalList := s.normalList.filter (· != i)
            deadlines := others i } : State).engage i b).bump .arrivalsMatched
        else refused) ∧
    (∀ i r, unheld → s.findLive c = some i → s.record i = some r →
      r.state = .engaged ∨ r.state = .charging ∨ r.state = .overstay → s.present b c = refused) ∧
    (∀ n a, unheld → s.findLive c = none → longestPrefix plan.allotments c = some (n, a) →
      let r := arrival a.cls (some n)
      let passes := a.firstBay ≤ b.val ∧ b.val < a.firstBay + a.count ∧ s.presentationTest r.claim b = true
      (∀ i rest, passes → s.freeSlots = i :: rest → s.present b c = ((created i rest r).engage i b).bump .arrivalsMatched) ∧
      (¬passes ∨ s.freeSlots = [] → s.present b c = refused)) ∧
    (∀ p, unheld → s.findLive c = none → longestPrefix plan.allotments c = none → (s.bay b).place = some p →
      let limit := match plan.feeders.find? (·.number == p.feeder) with | some f => f.limit | none => 0
      let allowed := plan.zones[p.zone.val].walkInOpen = true ∧ plan.zones[p.zone.val].closed = false ∧
        (p.kind = .standard ∨ p.kind = .large) ∧
        (∀ a ∈ plan.allotments, a.exclusive = true → ¬(a.firstBay ≤ b.val ∧ b.val < a.firstBay + a.count)) ∧
        (s.feeder p.feeder).pledge + p.pmin ≤ limit ∧ plan.site.walkInReserve < s.freeSlots.length
      (¬allowed → s.present b c = refused) ∧
      ∀ i rest, allowed → s.freeSlots = i :: rest →
        s.present b c = ((created i rest (arrival .pub none)).engage i b).bump .walkinsAdmitted) ∧
    ∀ h y, identifying → (s.bay b).keptHold = true → (s.bay b).bound = some h → s.record h = some y → y.state = .held →
      s.findLive c ≠ some h →
      let u : State := { refused with
        bays := s.bays.set b.val { s.bay b with state := .blocked, aspect := .inUse, reason := none }
        deadlines := s.deadlines.filter fun d => d.owner != .bay b
        notices := refused.notices.raise .bayAlert }
      let v := u.rehome h
      s.present b c = { v with bays := v.bays.set b.val { v.bay b with keptHold := false } }

/-- R94, R95: a re-homed record is unbound from its bay (pledge lowered, kept hold cleared) and its HOLD_END removed; then it is HELD
at the bay selection finds (RE_HOMES), or WAITING with its wait limit, or retired NO_SHOW where that is 0. -/
def Obligations.RehomingEndsInOneOfThreeWays : Prop :=
  ∀ (s : State) (i : SlotNo) (r : Reservation) (y : BayNo) (p : BayPlan), s.record i = some r → r.bay = some y →
    (s.bay y).place = some p →
    let u : State := { s with
      slots := s.slots.set i.val { s.slot i with record := some { r with bay := none } }
      bays := s.bays.set y.val { s.bay y with bound := none, keptHold := false }
      feeders := s.feeders.set p.feeder.val { s.feeder p.feeder with pledge := (s.feeder p.feeder).pledge - p.pmin }
      deadlines := s.deadlines.filter fun d => d.owner != .slot i }
    (∀ b, u.select r.claim = some b → s.rehome i = ((u.holdAt i b r.hold).setMark i).bump .reHomes) ∧
    (u.select r.claim = none → 0 < r.wait → s.rehome i = (u.startWaiting i r.wait).setMark i) ∧
    (u.select r.claim = none → r.wait = 0 → s.rehome i = (u.retire i .noShow).bump .noShows)

/-! ### Queries (R40, R112, R139, R192) -/

/-- R40, R112, R139, R192, 12.1, 12.4: QUERY BAY, QUERY FEEDER, READ CLOCK and READ COUNTERS change nothing, and answer OK with every
field of the record at the place 12.4 gives it, 0 where it is absent (a feeder the plan does not define: NO_SUCH); READ COUNTERS reads
the bank, in number order. That the record of an UNPLANNED bay opens with its number is the model's reading (notes/assumptions/23.md). -/
def Obligations.QueriesAnswerAndChangeNothing : Prop :=
  let or0 (v : Option Nat) : Nat := match v with | some n => n | none => 0
  let bit (n : Nat) (y : Bool) : Nat := if y then n else 0
  (∀ (n : BitVec 16) (b : BayNo) (s : State), n.toNat = b.val → s.takes (.queryBay n) → ∃ body,
    let x := s.bay b
    let g := s.grant b
    exec (.queryBay n) s = .next (s.answered (.queryBay n) .ok body) ∧ body.length = 39 ∧
      fieldAt body 0 2 = b.val ∧ fieldAt body 2 1 = or0 (x.place.map (·.zone.val)) ∧
      fieldAt body 3 1 = or0 (x.place.map (·.feeder.val)) ∧ fieldAt body 4 1 = or0 (x.place.map (·.kind.code)) ∧
      fieldAt body 5 2 = or0 (x.place.map (·.pmin)) % 65536 ∧ fieldAt body 7 2 = or0 (x.place.map (·.pmax)) % 65536 ∧
      fieldAt body 9 1 = x.state.code ∧ fieldAt body 10 1 = or0 (x.reason.map (·.code)) ∧
      fieldAt body 11 1 = bit 1 x.returnRequested + bit 2 x.keptHold + bit 4 x.occupancyHeld + bit 8 x.stop + bit 16 x.starved +
        bit 32 x.bound.isSome + bit 64 x.credential.isSome ∧
      fieldAt body 12 2 = or0 (x.bound.map fun i => i.val + 1024 * (s.slot i).generation.val) ∧
      fieldAt body 14 1 = x.occupancy.code ∧ fieldAt body 15 1 = x.plug.code ∧
      fieldAt body 16 5 = or0 (x.credential.map (·.toNat)) ∧ fieldAt body 21 2 = x.metered % 65536 ∧
      fieldAt body 23 2 = x.demand % 65536 ∧ fieldAt body 25 1 = x.aspect.code ∧ fieldAt body 26 1 = (s.unit b).link.code ∧
      fieldAt body 27 1 = (s.unit b).countdown % 256 ∧ fieldAt body 28 2 = g.target % 65536 ∧
      fieldAt body 30 2 = g.acknowledged % 65536 ∧ fieldAt body 32 2 = or0 (g.outstanding.map (·.value)) % 65536 ∧
      fieldAt body 34 2 = or0 (g.pending.map (·.value)) % 65536 ∧ fieldAt body 36 2 = g.stranded % 65536 ∧
      fieldAt body 38 1 = bit 1 g.outstanding.isSome + bit 2 g.pending.isSome) ∧
  (∀ (n : Byte) (f : FeederNo) (plan : Plan) (s : State), n.toNat = f.val → s.takes (.queryFeeder n) → s.plan = some plan →
    (∀ p, plan.feeders.find? (·.number == f) = some p → ∃ body,
      let x := s.feeder f
      let monitor := match x.monitor with | some m => m | none => {}
      let here (t : BayNo → Bool) : Nat := (List.finRange 512).countP fun b =>
        (match (s.bay b).place with | some y => y.feeder == f | none => false) && t b
      let running (b : BayNo) : Bool := match (s.bay b).bound.bind s.record with | some r => r.state == .charging | none => false
      exec (.queryFeeder n) s = .next (s.answered (.queryFeeder n) .ok body) ∧ body.length = 32 ∧
        fieldAt body 0 1 = f.val ∧ fieldAt body 1 2 = p.limit % 65536 ∧ fieldAt body 3 2 = s.effective % 65536 ∧
        fieldAt body 5 2 = x.want % 65536 ∧ fieldAt body 7 2 = x.budget % 65536 ∧
        fieldAt body 9 2 = x.trimmedBudget % 65536 ∧ fieldAt body 11 2 = x.sessionBudget % 65536 ∧
        fieldAt body 13 2 = x.pledge % 65536 ∧ fieldAt body 15 4 = x.stranded % 4294967296 ∧
        fieldAt body 19 4 = monitor.load % 4294967296 ∧ fieldAt body 23 1 = monitor.step % 256 ∧
        fieldAt body 24 2 = here running ∧ fieldAt body 26 2 = here (fun b => running b && (s.bay b).starved) ∧
        fieldAt body 28 2 = here (fun b => match (s.grant b).outstanding with | some o => o.decrease | none => false) ∧
        fieldAt body 30 2 = here (fun b => (s.grant b).heldBack.isSome)) ∧
    (plan.feeders.find? (·.number == f) = none →
      exec (.queryFeeder n) s = .next (s.answered (.queryFeeder n) .noSuch []))) ∧
  (∀ s : State, s.takes .readClock → exec .readClock s = .next (s.answered .readClock .ok
    (le 4 s.clock ++ le 2 s.deadlines.length ++
      match s.deadlines with
      | d :: _ => le 1 d.kind.code ++ le 4 d.due
      | [] => [0, 0, 0, 0, 0]))) ∧
  (∀ s : State, s.takes .readCounters → ∃ body,
    exec .readCounters s = .next (s.answered .readCounters .ok body) ∧ body.length = 72 ∧
      ∀ k : Fin 18, fieldAt body (4 * k.val) 4 = s.snapshot[k.val] % 4294967296) ∧
  [Kind.standard, .accessible, .large].map (·.code) = [0, 1, 2] ∧
  [BayState.unplanned, .free, .held, .identifying, .blocked, .engaged, .charging, .overstay, .outOfService].map (·.code) =
    [0, 1, 2, 3, 4, 5, 6, 7, 8] ∧
  [Reason.unheard, .linkLost, .postFault, .detectorFault, .operator].map (·.code) = [1, 2, 3, 4, 5] ∧
  [Occupancy.empty, .occupied].map (·.code) = [0, 1] ∧
  [PlugState.unplugged, .plugged, .charging, .postFault].map (·.code) = [0, 1, 2, 3] ∧
  [Aspect.dark, .available, .reserved, .inUse, .outOfService].map (·.code) = [0, 1, 2, 3, 4] ∧
  [LinkState.unheard, .active, .silent, .lost].map (·.code) = [0, 1, 2, 3]

/-! ### Bays by request (R41 to R43) -/

/-- R41, R42, R43, R136, R143: SET BAY SERVICE OUT by the bay's state (FREE, HELD, OUT_OF_SERVICE, any other), its lamp following; IN
sets return requested at a bay out for OPERATOR, POST_FAULT or DETECTOR_FAULT, and changes nothing at any other. CLEAR STRANDED at a bay
out for LINK_LOST or POST_FAULT, or holding a stranded grant: the grant is 0, X_f falls by it, a LINK_LOST bay's metered power is 0 and
leaves the feeder's load, and an allocation run follows; at another bay WRONG_STATE and nothing changes. -/
def Obligations.BayRequestsActByTheBaysState : Prop :=
  (∀ (n : BitVec 16) (b : BayNo) (s : State), n.toNat = b.val → (s.bay b).Lawful →
    let out (t : State) (status : Status) : Prop := s.takes (.setBayServiceOut n) →
      exec (.setBayServiceOut n) s = .next (t.answered (.setBayServiceOut n) status [])
    let into (t : State) (status : Status) : Prop := s.takes (.setBayServiceIn n) →
      exec (.setBayServiceIn n) s = .next (t.answered (.setBayServiceIn n) status [])
    let taken := { s.bay b with state := .outOfService, aspect := .outOfService, reason := some .operator }
    let ofOperator := (s.bay b).state = .outOfService ∧ ((s.bay b).reason = some .operator ∨
      (s.bay b).reason = some .postFault ∨ (s.bay b).reason = some .detectorFault)
    ((s.bay b).state = .free → (s.bay b).place ≠ none →
      out { s with bays := s.bays.set b.val taken, lanes := (s.aspectOrder b false).lanes } .ok) ∧
    (∀ i r, (s.bay b).state = .held → (s.bay b).bound = some i → s.record i = some r → r.state = .held →
      out (State.aspectOrders s (({ s with bays := s.bays.set b.val taken } : State).rehome i)) .ok) ∧
    ((s.bay b).state = .outOfService → s.charging b = false →
      out { s with bays := s.bays.set b.val { taken with returnRequested := false } } .ok) ∧
    ((s.bay b).state = .outOfService → s.charging b = true →
      out (({ s with bays := s.bays.set b.val { taken with returnRequested := false } } : State).endSession b true
        true).allocationRun .ok) ∧
    ((s.bay b).state ≠ .free → (s.bay b).state ≠ .held → (s.bay b).state ≠ .outOfService → out s .wrongState) ∧
    (ofOperator → into { s with bays := s.bays.set b.val { s.bay b with returnRequested := true } } .ok) ∧
    (¬ofOperator → into s .wrongState)) ∧
  ∀ (n : BitVec 16) (b : BayNo) (s : State) (p : BayPlan), n.toNat = b.val → s.takes (.clearStranded n) →
    (s.bay b).place = some p →
    let lost := (s.bay b).state = .outOfService ∧ (s.bay b).reason = some .linkLost
    let faulty := (s.bay b).state = .outOfService ∧ (s.bay b).reason = some .postFault
    let f := s.feeder p.feeder
    let u : State := { s with
      grants := s.grants.set b.val { s.grant b with stranded := 0 }
      bays := s.bays.set b.val { s.bay b with metered := if lost then 0 else (s.bay b).metered }
      feeders := s.feeders.set p.feeder.val
        { f with
          stranded := f.stranded - (s.grant b).stranded
          monitor := f.monitor.map fun m =>
            { m with load := if lost then m.load - (s.bay b).metered else m.load } } }
    (lost ∨ faulty ∨ 0 < (s.grant b).stranded →
      exec (.clearStranded n) s = .next (u.allocationRun.answered (.clearStranded n) .ok [])) ∧
    (¬lost → ¬faulty → (s.grant b).stranded = 0 →
      exec (.clearStranded n) s = .next (s.answered (.clearStranded n) .wrongState []))

/-! ### The bay plan (chapter 1, R182, R183) -/

/-- R182: the segment sequence of LOAD PLAN but for the completed plans: FIRST, MIDDLE, and a MIDDLE or LAST that does not fit or
finds no sequence. Nothing else changes. -/
def Obligations.SegmentsBuildTheStagedPlan : Prop :=
  ∀ (body : List Byte) (s : State),
    let with_ (staged : List Byte) (q : Option Nat) : State := { s with staged := staged, port := { s.port with sequence := q } }
    (s.takes (.loadPlanFirst body) →
      exec (.loadPlanFirst body) s = .next ((with_ body (some 1)).answered (.loadPlanFirst body) .ok [1])) ∧
    (∀ n, s.takes (.loadPlanMiddle body) → s.port.sequence = some n → n < 64 → s.staged.length + body.length ≤ 16384 →
      exec (.loadPlanMiddle body) s =
        .next ((with_ (s.staged ++ body) (some (n + 1))).answered (.loadPlanMiddle body) .ok (le 1 (n + 1)))) ∧
    (∀ n, s.port.sequence = some n → n = 64 ∨ 16384 < s.staged.length + body.length →
      (s.takes (.loadPlanMiddle body) →
        exec (.loadPlanMiddle body) s = .next ((with_ [] none).answered (.loadPlanMiddle body) .planTooLarge (le 1 n))) ∧
      (s.takes (.loadPlanLast body) →
        exec (.loadPlanLast body) s = .next ((with_ [] none).answered (.loadPlanLast body) .planTooLarge (le 1 n)))) ∧
    (s.port.sequence = none →
      (s.takes (.loadPlanMiddle body) →
        exec (.loadPlanMiddle body) s = .next (s.answered (.loadPlanMiddle body) .segmentOrder [])) ∧
      (s.takes (.loadPlanLast body) → exec (.loadPlanLast body) s = .next (s.answered (.loadPlanLast body) .segmentOrder [])))

/-- R9, R2 to R6, 12.3: the staged bytes are read by the layout of 12.3 and checked in the order of R9, the first failing check deciding
with the index of its first failing item (0 for checks 1, 2 and 5): 1 the counts and the length they call for; 2 the site record;
3 zone records; 4 feeder records; 5 the quotas of QUOTA mode; 6 bay records; 7 allotment entries. Bytes that pass stand for the plan
whose records are theirs, in their order. (That check 1 reports item 0 for a plan of one or more bytes too is the model's choice:
notes/assumptions/30.md.) -/
def Obligations.TheSevenChecksOfAPlan : Prop :=
  ∀ (staged : List Byte),
    let w := readPlan staged
    let v (at_ n : Nat) : Nat := fieldAt staged at_ n
    let within (lo hi x : Nat) : Prop := lo ≤ x ∧ x ≤ hi
    let nf := v 40 1
    let nb := v (41 + 9 * nf) 2
    let na := v (43 + 9 * nf + 9 * nb) 1
    let zone (k : Nat) := 24 + 2 * k
    let feeder (k : Nat) := 41 + 9 * k
    let bay (k : Nat) := 43 + 9 * nf + 9 * k
    let entry (k : Nat) := 44 + 9 * nf + 9 * nb + 11 * k
    let whole : Prop := nf ≤ 16 ∧ nb ≤ 512 ∧ na ≤ 64 ∧ staged.length = 44 + 9 * nf + 9 * nb + 11 * na
    let site : Prop := within 0 1 (v 2 1) ∧ within 0 15 (v 3 1) ∧ within 0 15 (v 4 1) ∧ within 0 1 (v 5 1) ∧ within 0 3 (v 6 1) ∧
      within 10 600 (v 7 2) ∧ within 60 3600 (v 9 2) ∧ within 60 7200 (v 12 2) ∧ within 0 14400 (v 14 2) ∧
      within 600 86400 (v 16 4) ∧ ∀ l, l < 4 → within 1 20 (v (20 + l) 1)
    let zoneOk (k : Nat) : Prop := v (zone k) 1 ≤ 1 ∧ v (zone k + 1) 1 ≤ 1
    let feederOk (k : Nat) : Prop := v (feeder k) 1 ≤ 15 ∧ (∀ e, e < k → v (feeder e) 1 ≠ v (feeder k) 1) ∧
      v (feeder k + 1) 2 ≤ 20000 ∧ v (feeder k + 3) 2 ≤ 256 ∧ v (feeder k + 5) 2 ≤ 256 ∧ v (feeder k + 7) 2 ≤ 256 ∧
      v (feeder k + 7) 2 < v (feeder k + 5) 2
    let quotas : Prop := v 2 1 = 0 ∨ ((List.range nf).map fun k => v (feeder k + 3) 2).sum ≤ 256
    let bayOk (k : Nat) : Prop := v (bay k) 2 ≤ 511 ∧ (∀ e, e < k → v (bay e) 2 ≠ v (bay k) 2) ∧ v (bay k + 2) 1 ≤ 7 ∧
      (∃ f, f < nf ∧ v (feeder f) 1 = v (bay k + 3) 1) ∧ v (bay k + 4) 1 ≤ 2 ∧ within 10 500 (v (bay k + 5) 2) ∧
      within (v (bay k + 5) 2) 1500 (v (bay k + 7) 2)
    let entryOk (k : Nat) : Prop := within 8 40 (v (entry k + 5) 1) ∧ v (entry k) 5 % 2 ^ (40 - v (entry k + 5) 1) = 0 ∧
      v (entry k + 6) 1 ≤ 2 ∧ within 1 32 (v (entry k + 9) 1) ∧ v (entry k + 10) 1 ≤ 1 ∧
      v (entry k + 7) 2 + v (entry k + 9) 1 - 1 ≤ 511 ∧
      (∀ j, j < v (entry k + 9) 1 → ∃ b, b < nb ∧ v (bay b) 2 = v (entry k + 7) 2 + j) ∧
      ∀ e, e < k → ¬(v (entry e) 5 = v (entry k) 5 ∧ v (entry e + 5) 1 = v (entry k + 5) 1)
    let all (n : Nat) (okay : Nat → Prop) : Prop := ∀ k, k < n → okay k
    let first (n : Nat) (okay : Nat → Prop) (k : Nat) : Prop := k < n ∧ ¬okay k ∧ all k okay
    (¬whole → w.firstFault = some (1, 0)) ∧
    (whole → ¬site → w.firstFault = some (2, 0)) ∧
    (∀ k, whole → site → first 8 zoneOk k → w.firstFault = some (3, k)) ∧
    (∀ k, whole → site → all 8 zoneOk → first nf feederOk k → w.firstFault = some (4, k)) ∧
    (whole → site → all 8 zoneOk → all nf feederOk → ¬quotas → w.firstFault = some (5, 0)) ∧
    (∀ k, whole → site → all 8 zoneOk → all nf feederOk → quotas → first nb bayOk k → w.firstFault = some (6, k)) ∧
    (∀ k, whole → site → all 8 zoneOk → all nf feederOk → quotas → all nb bayOk → first na entryOk k →
      w.firstFault = some (7, k)) ∧
    (whole → site → all 8 zoneOk → all nf feederOk → quotas → all nb bayOk → all na entryOk →
      w.firstFault = none ∧
      w.plan.site = {
        limit := v 0 2, mode := if v 2 1 = 0 then .pooled else .quota, wHigh := v 3 1, wNormal := v 4 1
        fleetPriority := if v 5 1 = 0 then .high else .normal
        ratio := if v 6 1 = 0 then .strict else if v 6 1 = 1 then .eightToOne else if v 6 1 = 2 then .fourToOne else .twoToOne
        identifyTime := v 7 2, graceTime := v 9 2, walkInReserve := v 11 1, defaultHold := v 12 2, defaultWait := v 14 2
        defaultStay := v 16 4, replyTimeouts := #v[v 20 1, v 21 1, v 22 1, v 23 1] } ∧
      (∀ k : Fin 8, w.plan.zones[k.val] = ⟨decide (v (zone k.val) 1 = 1), decide (v (zone k.val + 1) 1 = 1)⟩) ∧
      w.plan.feeders.length = nf ∧ w.plan.bays.length = nb ∧ w.plan.allotments.length = na ∧
      (∀ k, k < nf → ∃ x, w.plan.feeders[k]? = some x ∧ x.number.val = v (feeder k) 1 ∧ x.limit = v (feeder k + 1) 2 ∧
        x.quota = v (feeder k + 3) 2 ∧ x.highMark = v (feeder k + 5) 2 ∧ x.lowMark = v (feeder k + 7) 2) ∧
      (∀ k, k < nb → ∃ x, w.plan.bays[k]? = some x ∧ x.number.val = v (bay k) 2 ∧ x.zone.val = v (bay k + 2) 1 ∧
        x.feeder.val = v (bay k + 3) 1 ∧ x.kind.code = v (bay k + 4) 1 ∧ x.pmin = v (bay k + 5) 2 ∧ x.pmax = v (bay k + 7) 2) ∧
      ∀ k, k < na → ∃ x, w.plan.allotments[k]? = some x ∧ x.leading.toNat = v (entry k) 5 ∧ x.length = v (entry k + 5) 1 ∧
        x.cls.code = v (entry k + 6) 1 ∧ x.firstBay = v (entry k + 7) 2 ∧ x.count = v (entry k + 9) 1 ∧
        x.exclusive = decide (v (entry k + 10) 1 = 1))

/-- R8, R10, R11, R12, R183: a completed plan that fails a stage: PLAN_INVALID with the check and item, PLAN_CONFLICT with the lowest
protected bay that it removes or changes, PLEDGE_CONFLICT with the lowest feeder whose new limit is below its pledge, each behind the
segment count; the staged plan is emptied, the sequence closed and PLAN_APPLIED raised, and everything else is as it was. -/
def Obligations.ARefusedPlanChangesNothing : Prop :=
  ∀ (c : Instr) (body whole : List Byte) (count : Nat) (s : State), s.takes c →
    (c = .loadPlanOnly body ∧ whole = body ∧ count = 1 ∨
      ∃ n, c = .loadPlanLast body ∧ s.port.sequence = some n ∧ n < 64 ∧ s.staged.length + body.length ≤ 16384 ∧
        whole = s.staged ++ body ∧ count = n + 1) →
    let plan := (readPlan whole).plan
    let t : State := { s with
      staged := [], port := { s.port with sequence := none }, notices := s.notices.raise .planApplied }
    let conflict (b : BayNo) : Prop := ∃ old, (s.bay b).place = some old ∧
      (∀ new, plan.bays.find? (·.number == b) = some new →
        ¬(new.zone = old.zone ∧ new.feeder = old.feeder ∧ new.kind = old.kind ∧ new.pmin = old.pmin ∧ new.pmax = old.pmax)) ∧
      ((s.bay b).bound ≠ none ∨ ¬((s.bay b).state = .free ∨ (s.bay b).state = .outOfService ∧
        ((s.bay b).reason = some .operator ∨ (s.bay b).reason = some .unheard)))
    let below (f : FeederNo) : Prop :=
      ∃ x, plan.feeders.find? (·.number == f) = some x ∧ x.limit < (s.feeder f).pledge
    (∀ check item, (readPlan whole).firstFault = some (check, item) →
      exec c s = .next (t.answered c .planInvalid (le 1 count ++ le 1 check ++ le 2 item))) ∧
    (∀ b, (readPlan whole).firstFault = none → conflict b → (∀ x, x < b → ¬conflict x) →
      exec c s = .next (t.answered c .planConflict (le 1 count ++ le 2 b.val))) ∧
    (∀ f, (readPlan whole).firstFault = none → (∀ b, ¬conflict b) → below f → (∀ x, x < f → ¬below x) →
      exec c s = .next (t.answered c .pledgeConflict (le 1 count ++ le 1 f.val)))

/-- R13, R16, R17, R143, R144, R45, R183: a completed plan that passes its three stages becomes the active plan. Each bay is settled by
its class; each live record's allotment entry is derived again with no mark, and the ratio counter is 0 if the ratio setting changed; a
defined feeder's monitor takes the metered load of its bays and its marks, its trim state and step kept if it had one; then a run, an
offer of each FREE bay in ascending number, PLAN_APPLIED, the aspect orders, and a first exchange for each idle lane (the last point is
the model's reading: notes/assumptions/26.md). The answer is OK with the segment count and the numbers of added, removed and changed
bays; the plan's bays alone are planned, as the plan gives them. -/
def Obligations.APassedPlanIsApplied : Prop :=
  ∀ (c : Instr) (body whole : List Byte) (count : Nat) (s : State), s.takes c →
    (c = .loadPlanOnly body ∧ whole = body ∧ count = 1 ∨
      ∃ n, c = .loadPlanLast body ∧ s.port.sequence = some n ∧ n < 64 ∧ s.staged.length + body.length ≤ 16384 ∧
        whole = s.staged ++ body ∧ count = n + 1) →
    let plan := (readPlan whole).plan
    (readPlan whole).firstFault = none → (∀ b, s.conflicts plan b = false) → (∀ f, s.pledgeAbove plan f = false) →
    let old (b : BayNo) := (s.bay b).place
    let new (b : BayNo) := plan.bays.find? (·.number == b)
    let differs (x y : BayPlan) : Bool :=
      !decide (x.zone = y.zone ∧ x.feeder = y.feeder ∧ x.kind = y.kind ∧ x.pmin = y.pmin ∧ x.pmax = y.pmax)
    let tally (t : Option BayPlan → Option BayPlan → Bool) : Nat := (List.finRange 512).countP fun b => t (old b) (new b)
    let added := tally fun x y => x.isNone && y.isSome
    let removed := tally fun x y => x.isSome && y.isNone
    let changed := tally fun x y => match x, y with | some x, some y => differs x y | _, _ => false
    let settled : State := (List.finRange 512).foldl (State.settleBay plan)
      { s with plan := some plan, staged := whole, port := { s.port with sequence := none } }
    let sameRatio : Bool := match s.plan with | some p => p.site.ratio == plan.site.ratio | none => false
    let monitor (f : FeederNo) : Option Monitor := (plan.feeders.find? (·.number == f)).map fun x =>
      { load := (((List.finRange 512).filter (settled.onFeeder f)).map fun b => (settled.bay b).metered).sum
        high := x.limit * x.highMark / 256, low := x.limit * x.lowMark / 256
        state := match (s.feeder f).monitor with | some m => m.state | none => .normal
        step := match (s.feeder f).monitor with | some m => m.step | none => 0 }
    let ready : State := { settled with
      slots := settled.slots.map fun x =>
        { x with record := x.record.map fun r => { r with allotment := (longestPrefix plan.allotments r.credential).map (·.1) } }
      ratioCount := if sameRatio then s.ratioCount else 0
      feeders := Vector.ofFn fun f => { settled.feeder f with monitor := monitor f } }
    let offered : State :=
      (List.finRange 512).foldl (fun u b => if (u.bay b).state = .free then u.offer b else u) ready.allocationRun
    let t : State := (List.finRange 4).foldl (fun u l => if (u.lane l).line = none then u.chooseNext l else u)
      (State.aspectOrders s { offered with staged := [], notices := offered.notices.raise .planApplied })
    exec c s = .next (t.answered c .ok (le 1 count ++ le 2 added ++ le 2 removed ++ le 2 changed)) ∧
    t.plan = some plan ∧ t.staged = [] ∧ t.port = { s.port with sequence := none } ∧ t.clock = s.clock ∧
    t.curtailment = s.curtailment ∧ t.snapshot = s.snapshot ∧ t.notices.isSet .planApplied = true ∧
    (∀ f, (t.feeder f).monitor = monitor f) ∧
    (∀ i r, s.record i = some r → ∃ z, t.record i = some z ∧ z.credential = r.credential ∧
      z.allotment = (longestPrefix plan.allotments r.credential).map (·.1)) ∧
    (s.highList = [] → s.normalList = [] → ∀ i, (t.slot i).mark = (s.slot i).mark) ∧
    ∀ b, ((t.bay b).place.isSome = (new b).isSome) ∧
      ∀ x y, (t.bay b).place = some x → new b = some y →
        (x.zone = y.zone ∧ x.feeder = y.feeder ∧ x.kind = y.kind ∧ x.pmin = y.pmin ∧ x.pmax = y.pmax) ∧
        (t.bay b).metered = (if (old b).isSome then (s.bay b).metered else 0)

/-- R10, R14, R15, R16: what an apply does to one bay by its class: a removed one is as a bay never planned, its stranded grant out of
its feeder's X_f, its queued orders gone and an exchange with it marked; a changed one takes its record alone, its stranded grant
counting from now on in the feeder it names; an added one is OUT_OF_SERVICE(UNHEARD) and fresh; any other is left as it is. -/
def Obligations.AnApplySettlesEachBay : Prop :=
  ∀ (plan : Plan) (s : State) (b : BayNo),
    let new := plan.bays.find? (·.number == b)
    let same (x y : BayPlan) : Prop :=
      x.zone = y.zone ∧ x.feeder = y.feeder ∧ x.kind = y.kind ∧ x.pmin = y.pmin ∧ x.pmax = y.pmax
    (∀ old, (s.bay b).place = some old → new = none →
      let l := s.lane (laneOf b)
      State.settleBay plan s b = { s with
        bays := s.bays.set b.val {}, grants := s.grants.set b.val {}, units := s.units.set b.val {}
        feeders := s.feeders.set old.feeder.val
          { s.feeder old.feeder with stranded := (s.feeder old.feeder).stranded - (s.grant b).stranded }
        lanes := s.lanes.set (laneOf b).val
          { l with
            queue := l.queue.filter fun e => e.bay != b
            line := l.line.map fun x => if x.bay = b then { x with removed := true } else x } }) ∧
    (∀ old x, (s.bay b).place = some old → new = some x → ¬same old x → old.feeder ≠ x.feeder →
      State.settleBay plan s b = { s with
        bays := s.bays.set b.val { s.bay b with place := some x }
        feeders := (s.feeders.set old.feeder.val
          { s.feeder old.feeder with stranded := (s.feeder old.feeder).stranded - (s.grant b).stranded }).set x.feeder.val
          { s.feeder x.feeder with stranded := (s.feeder x.feeder).stranded + (s.grant b).stranded } }) ∧
    (∀ old x, (s.bay b).place = some old → new = some x → ¬same old x → old.feeder = x.feeder →
      (s.grant b).stranded ≤ (s.feeder x.feeder).stranded →
      State.settleBay plan s b = { s with bays := s.bays.set b.val { s.bay b with place := some x } }) ∧
    (∀ x, (s.bay b).place = none → new = some x →
      State.settleBay plan s b = { s with
        bays := s.bays.set b.val
          { place := some x, state := .outOfService, reason := some .unheard, aspect := .outOfService }
        grants := s.grants.set b.val {}, units := s.units.set b.val {} }) ∧
    ((s.bay b).place = none ∧ new = none ∨ (∃ old x, (s.bay b).place = some old ∧ new = some x ∧ same old x) →
      State.settleBay plan s b = s)

/-! ### The site clock and its deadlines (chapter 6) -/

/-- R110, R111, R113 to R117: the clock and the deadline list. An inserted entry stands behind every entry due no later and ahead of
every entry due later; inserting for an owner removes the owner's old entry. SET CLOCK below the reading is refused CLOCK_BACKWARD, and
at the reading answered OK, each with nothing changed. A pulse on SEC raises the clock by one, saturating; SET CLOCK above the reading
sets it. Then the expiry pass: while the head is due at or below the reading it leaves the list and expires, then the next head, until
the head is due later; SET CLOCK answers the reading and the number of expiries, up to 65535. An entry expires as its owner's expiry
command says. (The model's pass is bounded at the entries found plus 4096, which no run reaches: notes/assumptions/9.md; an expiry
command of its own is the model's choice: notes/assumptions/8.md.) -/
def Obligations.TheClockAdvancesWithItsExpiryPass : Prop :=
  (∀ (d : Deadline) (ds : List Deadline), ds.Pairwise (fun a b => a.due ≤ b.due) →
    insertByDue d ds = (ds.filter fun e => decide (e.due ≤ d.due)) ++ d :: (ds.filter fun e => decide (d.due < e.due)) ∧
      (insertByDue d ds).Pairwise (fun a b => a.due ≤ b.due)) ∧
  (∀ (s : State) (k : DeadlineKind) (o : Owner) (seconds : Nat), s.startDeadline k o seconds = { s with
    deadlines := insertByDue ⟨k, o, min (s.clock + seconds) 0xFFFFFFFF⟩ (s.deadlines.filter fun d => d.owner != o) }) ∧
  (∀ (v : BitVec 32) (s : State), s.takes (.setClock v) →
    (v.toNat < s.clock →
      exec (.setClock v) s = .next (s.answered (.setClock v) .clockBackward (le 4 s.clock ++ [0, 0]))) ∧
    (v.toNat = s.clock → exec (.setClock v) s = .next (s.answered (.setClock v) .ok (le 4 s.clock ++ [0, 0])))) ∧
  (∀ (s : State) (n reading : Nat),
    let takeHead (u : State) : State := match u.deadlines with
      | d :: rest => ({ u with deadlines := rest } : State).expire d
      | [] => u
    let after (k : Nat) : State := takeHead^[k] { s with clock := reading }
    let due (u : State) : Prop := ∃ d rest, u.deadlines = d :: rest ∧ d.due ≤ reading
    (∀ k, k < n → due (after k)) → ¬due (after n) → n ≤ s.deadlines.length + 4096 →
    (reading = min (s.clock + 1) 0xFFFFFFFF → exec .secPulse s = .next (State.aspectOrders s (after n))) ∧
    (∀ v : BitVec 32, s.takes (.setClock v) → v.toNat = reading → s.clock < reading →
      exec (.setClock v) s = .next ((State.aspectOrders s (after n)).answered (.setClock v) .ok
        (le 4 reading ++ le 2 (min n 65535)))) ∧
    (State.aspectOrders s (after n)).clock = reading ∧ (after n).plan = s.plan ∧ (after n).port = s.port ∧
    (after n).staged = s.staged ∧ (after n).snapshot = s.snapshot) ∧
  ∀ (s : State) (d : Deadline), s.deadlineOf d.owner = some d →
    let expires (c : Instr) : Prop := exec c s = .next (State.aspectOrders s
      (({ s with deadlines := s.deadlines.filter fun e => e.owner != d.owner } : State).expire d))
    (∀ i, d.owner = .slot i → (d.kind = .holdEnd → expires (.holdEnd i)) ∧ (d.kind = .waitEnd → expires (.waitEnd i)) ∧
      (d.kind = .stayEnd → expires (.stayEnd i))) ∧
    (∀ b, d.owner = .bay b → (d.kind = .identifyEnd → expires (.identifyEnd b)) ∧ (d.kind = .graceEnd → expires (.graceEnd b))) ∧
    (d.owner = .curtailment → d.kind = .curtailEnd → expires .curtailEnd)

/-- R69, R70, R54, R55, R117: HOLD_END of a HELD record at a HELD bay: the entry leaves the list, the record is retired NO_SHOW, NO_SHOWS
counts, the bay becomes FREE and is offered; with nobody waiting that is all, and the bay's lane gets the aspect AVAILABLE. WAIT_END of a
WAITING record: it is off its list and retired WAIT_EXPIRED, WAIT_EXPIRIES counts, no bay is concerned, and nothing else changes. -/
def Obligations.SlotDeadlinesRetireTheRecord : Prop :=
  (∀ (s : State) (i : SlotNo) (r : Reservation) (b : BayNo) (p : BayPlan) (due : Nat), s.record i = some r →
    r.state = .held → r.bay = some b → (s.bay b).place = some p → (s.bay b).state = .held → (s.bay b).Lawful →
    s.deadlineOf (.slot i) = some ⟨.holdEnd, .slot i, due⟩ →
    let freed := (((s.retire i .noShow).bump .noShows).enter b .free)
    exec (.holdEnd i) s = .next (State.aspectOrders s (freed.offer b)) ∧
    (s.highList = [] → s.normalList = [] →
      let u : State := { s with
        slots := s.slots.set i.val
          { record := none, lastOutcome := some .noShow, mark := true
            generation := ⟨((s.slot i).generation.val + 1) % 64, by omega⟩ }
        freeSlots := s.freeSlots ++ [i]
        deadlines := s.deadlines.filter fun d => d.owner != .slot i
        bays := s.bays.set b.val
          { s.bay b with state := .free, aspect := .available, bound := none, keptHold := false }
        feeders := s.feeders.set p.feeder.val
          { s.feeder p.feeder with pledge := (s.feeder p.feeder).pledge - p.pmin }
        lanes := (s.aspectOrder b false).lanes }
      exec (.holdEnd i) s = .next (({ u with notices := s.notices.evaluate u.markedCount } : State).bump .noShows))) ∧
  ∀ (s : State) (i : SlotNo) (r : Reservation) (due : Nat), s.record i = some r → r.state = .waiting → r.bay = none →
    s.deadlineOf (.slot i) = some ⟨.waitEnd, .slot i, due⟩ →
    let u : State := { s with
      slots := s.slots.set i.val
        { record := none, lastOutcome := some .waitExpired, mark := true
          generation := ⟨((s.slot i).generation.val + 1) % 64, by omega⟩ }
      freeSlots := s.freeSlots ++ [i]
      highList := s.highList.filter (· != i), normalList := s.normalList.filter (· != i)
      deadlines := s.deadlines.filter fun d => d.owner != .slot i }
    exec (.waitEnd i) s = .next (({ u with notices := s.notices.evaluate u.markedCount } : State).bump .waitExpiries)

/-- R71, R117: STAY_END sets stay exhausted and the mark. At an ENGAGED record of an ENGAGED bay GRACE_END is inserted unless it runs;
at an ENGAGED record of an OUT_OF_SERVICE bay there is no grace; at a CHARGING record the session ends with a STOP, grace starts at a
CHARGING bay and not at an OUT_OF_SERVICE one, and an allocation run follows. -/
def Obligations.StayEndExhaustsTheStay : Prop :=
  ∀ (s : State) (i : SlotNo) (r : Reservation) (b : BayNo) (due : Nat) (plan : Plan), s.plan = some plan →
    s.record i = some r → r.bay = some b → s.deadlineOf (.slot i) = some ⟨.stayEnd, .slot i, due⟩ →
    let others := s.deadlines.filter fun d => d.owner != .slot i
    let u : State := { s with
      slots := s.slots.set i.val { s.slot i with record := some { r with stayExhausted := true }, mark := true }
      deadlines := others }
    let v : State := { u with notices := s.notices.evaluate u.markedCount }
    let grace : Deadline := ⟨.graceEnd, .bay b, min (s.clock + plan.site.graceTime) 0xFFFFFFFF⟩
    (r.state = .engaged → (s.bay b).state = .engaged → s.deadlineOf (.bay b) ≠ none → exec (.stayEnd i) s = .next v) ∧
    (r.state = .engaged → (s.bay b).state = .engaged → s.deadlineOf (.bay b) = none →
      exec (.stayEnd i) s = .next { v with deadlines := insertByDue grace (others.filter fun d => d.owner != .bay b) }) ∧
    (r.state = .engaged → (s.bay b).state = .outOfService → exec (.stayEnd i) s = .next v) ∧
    (r.state = .charging → (s.bay b).state = .charging → (s.bay b).Lawful →
      exec (.stayEnd i) s = .next ((v.endSession b true true).startDeadline .graceEnd (.bay b) plan.site.graceTime).allocationRun) ∧
    (r.state = .charging → (s.bay b).state = .outOfService →
      exec (.stayEnd i) s = .next (v.endSession b true true).allocationRun)

/-- R37, R38, R117: IDENTIFY_END of an IDENTIFYING bay: it becomes BLOCKED, its lamp stays IN_USE, BAY_ALERT is raised; with no kept hold
nothing else changes, and a kept hold is re-homed and cleared. GRACE_END of an ENGAGED bay: bay and bound record become OVERSTAY, the
record's STAY_END is removed, OVERSTAYS counts, the mark is set; the lamp stays IN_USE and nothing else changes. -/
def Obligations.BayDeadlinesMoveTheBay : Prop :=
  (∀ (s : State) (b : BayNo) (due : Nat), (s.bay b).state = .identifying → (s.bay b).Lawful →
    s.deadlineOf (.bay b) = some ⟨.identifyEnd, .bay b, due⟩ →
    let u : State := { s with
      bays := s.bays.set b.val { s.bay b with state := .blocked }
      deadlines := s.deadlines.filter fun d => d.owner != .bay b
      notices := s.notices.raise .bayAlert }
    ((s.bay b).keptHold = false → exec (.identifyEnd b) s = .next u) ∧
    (∀ i r, (s.bay b).keptHold = true → (s.bay b).bound = some i → s.record i = some r → r.state = .held →
      let v := u.rehome i
      exec (.identifyEnd b) s =
        .next (State.aspectOrders s { v with bays := v.bays.set b.val { v.bay b with keptHold := false } }))) ∧
  ∀ (s : State) (b : BayNo) (i : SlotNo) (r : Reservation) (due : Nat), (s.bay b).state = .engaged → (s.bay b).Lawful →
    (s.bay b).bound = some i → s.record i = some r → s.deadlineOf (.bay b) = some ⟨.graceEnd, .bay b, due⟩ →
    let u : State := { s with
      bays := s.bays.set b.val { s.bay b with state := .overstay }
      slots := s.slots.set i.val { s.slot i with record := some { r with state := .overstay }, mark := true }
      deadlines := (s.deadlines.filter fun d => d.owner != .bay b).filter fun d => d.owner != .slot i
      counters := (s.bump .overstays).counters
      notices := (s.bump .overstays).notices }
    exec (.graceEnd b) s = .next { u with notices := u.notices.evaluate u.markedCount }

/-! ### Power (chapters 7 and 8) -/

/-- R148 to R151, R115, R117: CURTAIL sets C and CURTAIL_END and takes a run exactly if C changes; CURTAIL with amount 0 ends an active
curtailment, with a run if C was above 0, and does nothing with none active; CURTAIL_END does the same with a run and CURTAIL_ENDED.
Each CURTAIL reply carries the amount, E = max(0, S − C) and the end, and the amount and end before. -/
def Obligations.CurtailmentsStartAndEnd : Prop :=
  ∀ s : State,
    let limit := match s.plan with | some plan => plan.site.limit | none => 0
    let others := s.deadlines.filter fun d => d.owner != .curtailment
    let last : List Byte := match s.deadlineOf .curtailment with
      | some d => 1 :: le 4 d.due
      | none => [0, 0, 0, 0, 0]
    (∀ (a : BitVec 16) (d : BitVec 32), s.takes (.curtail a d) → a ≠ 0 → 1 ≤ d.toNat → d.toNat ≤ 86400 →
      let due := min (s.clock + d.toNat) 0xFFFFFFFF
      let u : State := { s with
        curtailment := a.toNat, deadlines := insertByDue ⟨.curtailEnd, .curtailment, due⟩ others }
      let t := if a.toNat = s.curtailment then u else u.allocationRun
      exec (.curtail a d) s = .next (t.answered (.curtail a d) .ok
        (le 2 a.toNat ++ le 2 (limit - a.toNat) ++ 1 :: le 4 due ++ le 2 s.curtailment ++ last))) ∧
    (∀ d : BitVec 32, s.takes (.curtailAmountZero d) → s.deadlineOf .curtailment ≠ none →
      let u : State := { s with curtailment := 0, deadlines := others }
      let t := if s.curtailment = 0 then u else u.allocationRun
      exec (.curtailAmountZero d) s = .next (t.answered (.curtailAmountZero d) .ok
        (le 2 0 ++ le 2 limit ++ [0, 0, 0, 0, 0] ++ le 2 s.curtailment ++ last))) ∧
    (∀ d : BitVec 32, s.takes (.curtailAmountZero d) → s.deadlineOf .curtailment = none → s.curtailment = 0 →
      exec (.curtailAmountZero d) s = .next (s.answered (.curtailAmountZero d) .ok
        (le 2 0 ++ le 2 limit ++ [0, 0, 0, 0, 0] ++ le 2 0 ++ last))) ∧
    (∀ due, s.deadlineOf .curtailment = some ⟨.curtailEnd, .curtailment, due⟩ →
      let u : State := { s with curtailment := 0, deadlines := others, notices := s.notices.raise .curtailEnded }
      exec .curtailEnd s = .next u.allocationRun ∧ u.allocationRun.curtailment = 0 ∧ u.allocationRun.effective = limit)

/-- R125: how E is shared among the feeders' wants: in QUOTA mode, and where the wants fit, each has its want; otherwise each has its
proportion rounded down, and one unit more goes to the lowest feeders that want any, as far as the leftover goes, so that the budgets
sum to E and none is above its want. -/
def Obligations.BudgetsShareTheSiteExactly : Prop :=
  ∀ (e : Nat) (wants : List Nat),
    shareBudget .quota e wants = wants ∧
    (wants.sum ≤ e → shareBudget .pooled e wants = wants) ∧
    (e < wants.sum →
      let part (w : Nat) := w * e / wants.sum
      let leftover := e - (wants.map part).sum
      (shareBudget .pooled e wants).sum = e ∧ (shareBudget .pooled e wants).length = wants.length ∧
      ∀ k w, wants[k]? = some w → ∃ b, (shareBudget .pooled e wants)[k]? = some b ∧ b ≤ w ∧
        b = part w + if 0 < w ∧ (wants.take k).countP (fun x => decide (0 < x)) < leftover then 1 else 0)

/-- R123, R127, R128, R2: the sessions of a feeder and how they share its session budget. The grant order lists the running sessions of
the feeder's bays, HIGH before NORMAL, each by session number (equal numbers by start), with their caps and weights. The minimums are
handed out along it, a session whose pmin is above what is left passed over; then weighted passes give each open session its share of
what is left, at most its headroom, until every share is 0; then unit rounds give one unit to each open session along the order. (A pass
and a round that give nothing change nothing, so `budget` of each are all of them.) The grants never pass the budget, and reach it unless
every served session is at its cap. -/
def Obligations.SessionsShareTheirFeedersBudget : Prop :=
  (∀ (s : State) (f : FeederNo) (plan : Plan), s.plan = some plan →
    let cap (p : BayPlan) (wish : Option Nat) (demand : Nat) : Nat :=
      let named := (wish.toList ++ [demand]).filter (0 < ·)
      max p.pmin (min p.pmax (named.min?.getD p.pmax))
    let weight (y : Priority) : Nat := match y with
      | .high => if plan.site.wHigh = 0 then 2 else plan.site.wHigh
      | .normal => if plan.site.wNormal = 0 then 1 else plan.site.wNormal
    (∀ x, x ∈ s.sessionsOn f ↔ ∃ b p i r, (s.bay b).place = some p ∧ p.feeder = f ∧ (s.bay b).bound = some i ∧
      s.record i = some r ∧ r.state = .charging ∧
      x = { bay := b, pmin := p.pmin, cap := cap p r.cap (s.bay b).demand, weight := weight r.priority
            high := decide (r.priority = .high), number := match r.session with | some n => n | none => 0
            ordinal := (s.grant b).startOrdinal }) ∧
    ((s.sessionsOn f).map (·.bay)).Nodup ∧
    (s.sessionsOn f).Pairwise fun x y => x.high = true ∧ y.high = false ∨ x.high = y.high ∧
      (x.number < y.number ∨ x.number = y.number ∧ x.ordinal ≤ y.ordinal)) ∧
  ∀ (budget : Nat) (xs : List Session),
    let isOpen (y : Session) : Bool := y.served && decide (y.grant < y.cap)
    let minimum : Nat × List Session → Session → Nat × List Session := fun (left, ys) x =>
      if x.pmin ≤ left then (left - x.pmin, ys ++ [{ x with grant := x.pmin, served := true }])
      else (left, ys ++ [{ x with grant := 0, served := false }])
    let pass : Nat × List Session → Nat × List Session := fun (left, ys) =>
      let weights := ((ys.filter isOpen).map (·.weight)).sum
      let given (y : Session) : Nat := if isOpen y then min (left * y.weight / weights) (y.cap - y.grant) else 0
      (left - (ys.map given).sum, ys.map fun y => { y with grant := y.grant + given y })
    let unit : Nat × List Session → Session → Nat × List Session := fun (left, ys) y =>
      if 0 < left ∧ isOpen y then (left - 1, ys ++ [{ y with grant := y.grant + 1 }]) else (left, ys ++ [y])
    let round : Nat × List Session → Nat × List Session := fun (left, ys) => ys.foldl unit (left, [])
    let ys := shareSessions budget xs
    ys = (round^[budget] (pass^[budget] (xs.foldl minimum (budget, [])))).2 ∧
    ((∀ x ∈ xs, x.pmin ≤ x.cap) →
      ys.map (·.bay) = xs.map (·.bay) ∧ (ys.map (·.grant)).sum ≤ budget ∧
      ((ys.map (·.grant)).sum = budget ∨ ∀ y ∈ ys, y.served = true → y.grant = y.cap) ∧
      ∀ k x y, xs[k]? = some x → ys[k]? = some y → y.cap = x.cap ∧ y.pmin = x.pmin ∧
        (y.served = true ↔ x.pmin + (((ys.take k).filter (·.served)).map (·.pmin)).sum ≤ budget) ∧
        (y.served = true → x.pmin ≤ y.grant ∧ y.grant ≤ x.cap) ∧ (y.served = false → y.grant = 0))

/-- R122 to R126, R129, R151: what an allocation run leaves of a defined feeder f: E, W_f, B'_f and A_f by their formulas, B_f its entry in
the shares of E among the wants of all sixteen feeders, an undefined one's 0, B'_f ≤ B_f ≤ F_f; each session's target is its share of A_f;
every running session's target is 0, with the starved flag, or lies in its pmin to its cap; the targets of the feeder sum to at most A_f;
a bay with no session has target 0 and no flag. A run writes those values, counts SESSIONS_STARVED once for each starved flag that goes
from clear to set, and then settles the targets; it changes nothing else. -/
def Obligations.AnAllocationRunStaysWithinItsBudgets : Prop :=
  ∀ (s : State) (f : FeederNo) (p : FeederPlan) (plan : Plan), s.plan = some plan →
    plan.feeders.find? (·.number == f) = some p →
    let t := s.allocationRun
    let x := t.feeder f
    let caps := ((s.sessionsOn f).map (·.cap)).sum
    let full := min p.limit ((s.feeder f).stranded + caps)
    t.effective = plan.site.limit - s.curtailment ∧
    x.budget = (shareBudget plan.site.mode t.effective ((List.finRange 16).map fun g => (t.feeder g).want)).getD f.val 0 ∧
    (∀ g, plan.feeders.find? (·.number == g) = none →
      (t.feeder g).want = 0 ∧ (t.feeder g).budget = 0 ∧ (t.feeder g).trimmedBudget = 0 ∧ (t.feeder g).sessionBudget = 0) ∧
    x.want = (match plan.site.mode with
      | .pooled => full
      | .quota => min full ((plan.site.limit - s.curtailment) * p.quota / 256)) ∧
    x.trimmedBudget = x.budget * (256 - 32 * x.trimStep) / 256 ∧ x.sessionBudget = x.trimmedBudget - x.stranded ∧
    x.stranded = (s.feeder f).stranded ∧ x.trimStep = (s.feeder f).trimStep ∧ x.trimmedBudget ≤ x.budget ∧ x.budget ≤ p.limit ∧
    (∀ y ∈ shareSessions x.sessionBudget (s.sessionsOn f), (t.grant y.bay).target = y.grant) ∧
    (((List.finRange 512).filter (s.onFeeder f)).map fun b => (t.grant b).target).sum ≤ x.sessionBudget ∧
    (∀ (b : BayNo) (y : BayPlan), (s.bay b).place = some y → y.feeder = f →
      (∀ i r, (s.bay b).bound = some i → s.record i = some r → r.state = .charging →
        ((t.grant b).target = 0 ∨
          y.pmin ≤ (t.grant b).target ∧ (t.grant b).target ≤ sessionCap y.pmin y.pmax r.cap (s.bay b).demand) ∧
        (t.bay b).starved = decide ((t.grant b).target = 0)) ∧
      (s.charging b = false → (t.grant b).target = 0 ∧ (t.bay b).starved = false)) ∧
    (∀ g, (t.feeder g).pledge = (s.feeder g).pledge ∧ (t.feeder g).stranded = (s.feeder g).stranded ∧
      (t.feeder g).monitor = (s.feeder g).monitor) ∧
    (∀ b, { t.bay b with starved := (s.bay b).starved } = s.bay b ∧ (t.grant b).acknowledged = (s.grant b).acknowledged ∧
      (t.grant b).stranded = (s.grant b).stranded ∧ (t.grant b).zeroAcked = (s.grant b).zeroAcked) ∧
    { t with
      feeders := s.feeders, effective := s.effective, grants := s.grants, bays := s.bays, counters := s.counters
      notices := s.notices, lanes := s.lanes } = s ∧
    let starved := (List.finRange 512).filter fun b => (t.bay b).starved && !(s.bay b).starved
    let targeted : State := { s with
      effective := t.effective, feeders := t.feeders, bays := t.bays
      grants := Vector.ofFn fun b => { s.grant b with target := (t.grant b).target } }
    t = (starved.foldl (fun u _ => u.bump .sessionsStarved) targeted).settleTargets

/-- R130, R131, R132, R134, R135: after a run has written its targets, every held-back increase is discarded, each running session's bay
is settled against its target by the first row of R131 that applies, in ascending number, and each feeder's gate is tested. A gate is
open unless a bay of the feeder, not OUT_OF_SERVICE(POST_FAULT), has an outstanding decrease or a pending target below its committed
grant; found open, it releases the held-back increases in ascending bay number. An order handed to a lane is outstanding, of class
decrease below the committed grant, and its START counts as queued; a STOP is queued at once, or pending behind an outstanding order. -/
def Obligations.TargetsAreSettledAndGatesRelease : Prop :=
  ∀ s : State,
    let with_ (u : State) (b : BayNo) (g : Grants) : State := { u with grants := u.grants.set b.val g }
    (∀ (b : BayNo) (v : Nat) (flag : OrderFlag),
      let g := s.grant b
      let committed := match g.outstanding with | some o => max g.acknowledged o.value | none => g.acknowledged
      let o : GrantOrder := ⟨v, flag, decide (v < committed)⟩
      let l := s.lane (laneOf b)
      s.handGrant b v flag = { s with
        grants := s.grants.set b.val { g with outstanding := some o, startQueued := g.startQueued || decide (flag = .start) }
        lanes := s.lanes.set (laneOf b).val { l with queue := queueGrant b o l.queue } }) ∧
    (∀ b : BayNo, s.makeStop b = if (s.grant b).outstanding = none then s.handGrant b 0 .stop
      else with_ s b { s.grant b with pending := some ⟨0, .stop⟩ }) ∧
    (∀ b : BayNo,
      let g := s.grant b
      let flag := if g.startQueued then OrderFlag.plain else OrderFlag.start
      (∀ o, g.outstanding = some o → g.target = o.value → g.startQueued = true →
        s.settleTarget b = with_ s b { g with pending := none }) ∧
      (∀ o, g.outstanding = some o → g.target ≠ o.value ∨ g.startQueued = false →
        s.settleTarget b = with_ s b { g with pending := some ⟨g.target, flag⟩ }) ∧
      (g.outstanding = none → g.target < g.acknowledged → s.settleTarget b = s.handGrant b g.target flag) ∧
      (g.outstanding = none → g.target = g.acknowledged → g.startQueued = true → s.settleTarget b = s) ∧
      (g.outstanding = none → g.target = g.acknowledged → g.startQueued = false →
        s.settleTarget b = s.handGrant b g.target .start) ∧
      (g.outstanding = none → g.acknowledged < g.target →
        s.settleTarget b = with_ s b { g with heldBack := some ⟨g.target, flag⟩ })) ∧
    (∀ f : FeederNo, s.gateOpen f = true ↔ ∀ b p, (s.bay b).place = some p → p.feeder = f →
      (s.bay b).state = .outOfService ∧ (s.bay b).reason = some .postFault ∨
      let g := s.grant b
      let committed := match g.outstanding with | some o => max g.acknowledged o.value | none => g.acknowledged
      (∀ o, g.outstanding = some o → o.decrease = false) ∧ ∀ v, g.pending = some v → committed ≤ v.value) ∧
    (∀ b : BayNo, s.releaseIncrease b = match (s.grant b).heldBack, (s.grant b).outstanding with
      | none, _ => s
      | some v, none => (with_ s b { s.grant b with heldBack := none }).handGrant b v.value v.flag
      | some v, some _ => with_ s b { s.grant b with heldBack := none, pending := some v }) ∧
    (∀ f : FeederNo, s.testGate f = if s.gateOpen f then
      ((List.finRange 512).filter (s.onFeeder f)).foldl State.releaseIncrease s else s) ∧
    (∀ b p, (s.bay b).place = some p → s.testGateOf b = s.testGate p.feeder ∧ s.gateOpenOf b = s.gateOpen p.feeder) ∧
    let kept : State := { s with grants := s.grants.map fun g => { g with heldBack := none } }
    s.settleTargets =
      (List.finRange 16).foldl State.testGate (((List.finRange 512).filter s.charging).foldl State.settleTarget kept)

/-- R146: the trim state of a feeder at a report, row by row: the new state and step, FEEDER raised and TRIM_ENTRIES counted at an
entry into TRIMMED, FEEDER raised at a return to NORMAL, and whether a run is called for; the step stays 0 in NORMAL and 1 to 3 in
TRIMMED and EASED. -/
def Obligations.TrimMovesByTheTable : Prop :=
  ∀ (s : State) (f : FeederNo) (m : Monitor), (s.feeder f).monitor = some m → m.Lawful →
    let moved (state : TrimState) (step : Nat) : State := { s with
      feeders := s.feeders.set f.val { s.feeder f with monitor := some { m with state := state, step := step } } }
    let entered (t : State) := (t.raise .feeder).bump .trimEntries
    (m.state = .normal → m.high < m.load → s.evaluateTrim f = (entered (moved .trimmed 1), true)) ∧
    (m.state = .normal → m.load ≤ m.high → s.evaluateTrim f = (moved .normal 0, false)) ∧
    (m.state = .trimmed → m.load < m.low → s.evaluateTrim f = ((moved .normal 0).raise .feeder, true)) ∧
    (m.state = .trimmed → m.low ≤ m.load → m.load ≤ m.high → s.evaluateTrim f = (moved .eased m.step, false)) ∧
    (m.state = .trimmed → m.low ≤ m.load → m.high < m.load → s.evaluateTrim f = (moved .trimmed m.step, false)) ∧
    (m.state = .eased → m.load < m.low → s.evaluateTrim f = ((moved .normal 0).raise .feeder, true)) ∧
    (m.state = .eased → m.low ≤ m.load → m.high < m.load →
      s.evaluateTrim f = (entered (moved .trimmed (min 3 (m.step + 1))), decide (min 3 (m.step + 1) ≠ m.step))) ∧
    (m.state = .eased → m.low ≤ m.load → m.load ≤ m.high → s.evaluateTrim f = (moved .eased m.step, false)) ∧
    ∀ n, ((s.evaluateTrim f).1.feeder f).monitor = some n → n.Lawful

/-- R33, R34, R35, R56, R130, R135: a session start (GRACE_END gone, bay and record CHARGING, the next session number, the mark,
SESSIONS_STARTED), and a session end: the record ENGAGED with session done and no number, marked where the cause marks it, a CHARGING bay
ENGAGED, target 0, held-back and pending gone, and a STOP of grant 0 where the cause makes one. Stage 4 starts a session at an ENGAGED
bay with none running that reports a plug after UNPLUGGED or became ENGAGED in this report, or flashes a refusal where the stay is
exhausted; an unplug in stage 4 and a new stop flag in stage 5 end the running session, with grace at a CHARGING bay alone; each stage
stores what was reported, and asks for a run exactly where a session starts or ends. -/
def Obligations.SessionsStartAndEnd : Prop :=
  (∀ (s : State) (b : BayNo) (i : SlotNo) (r : Reservation), s.record i = some r →
    let begun : State := { s with
      slots := s.slots.set i.val
        { s.slot i with record := some { r with state := .charging, session := some s.sessionSeq }, mark := true }
      bays := s.bays.set b.val { s.bay b with state := .charging, aspect := .inUse, reason := none, starved := false }
      grants := s.grants.set b.val { s.grant b with startQueued := false, startOrdinal := s.starts }
      sessionSeq := min (s.sessionSeq + 1) 0xFFFFFFFF
      starts := s.starts + 1
      deadlines := s.deadlines.filter fun d => d.owner != .bay b }
    s.startSession b i = ({ begun with notices := s.notices.evaluate begun.markedCount } : State).bump .sessionsStarted ∧
    ((s.bay b).bound = some i → r.state = .charging → ∀ stop mark : Bool,
      let x := s.bay b
      let u : State := { s with
        slots := s.slots.set i.val
          { s.slot i with
            record := some { r with state := .engaged, session := none, sessionDone := true }, mark := (s.slot i).mark || mark }
        bays := s.bays.set b.val
          (if x.state = .charging then { x with state := .engaged, aspect := .inUse, reason := none, starved := false }
           else { x with starved := false })
        grants := s.grants.set b.val
          { s.grant b with target := 0, heldBack := none, pending := none, startQueued := false } }
      let v : State := if mark then { u with notices := s.notices.evaluate u.markedCount } else u
      s.endSession b stop mark = if stop then v.makeStop b else v)) ∧
  ∀ (s : State) (b : BayNo) (r : Report) (plan : Plan), s.plan = some plan →
    let x := s.bay b
    let runs : Prop := ∃ i q, x.bound = some i ∧ s.record i = some q ∧ q.state = .charging
    let plugs (y : PlugState) : Prop := y = .plugged ∨ y = .charging
    let withPlug (u : State) : State := { u with bays := u.bays.set b.val { u.bay b with plug := r.plug } }
    let withStop (u : State) : State := { u with bays := u.bays.set b.val { u.bay b with stop := r.stop } }
    let ended := s.endSession b true true
    let after : State := if x.state = .charging then { ended with
      deadlines := insertByDue ⟨.graceEnd, .bay b, min (s.clock + plan.site.graceTime) 0xFFFFFFFF⟩
        (ended.deadlines.filter fun d => d.owner != .bay b) } else ended
    (¬runs → ∀ stop mark, s.endSession b stop mark = s) ∧
    (∀ became : Bool,
      let starts : Prop := x.state = .engaged ∧ ¬runs ∧ plugs r.plug ∧ (x.plug = .unplugged ∨ became = true)
      let unplugs : Prop := runs ∧ r.plug = .unplugged ∧ plugs x.plug
      (∀ i q, starts → x.bound = some i → s.record i = some q → q.stayExhausted = false →
        s.stage4 b r became = (withPlug (s.startSession b i), true)) ∧
      (∀ i q, starts → x.bound = some i → s.record i = some q → q.stayExhausted = true →
        s.stage4 b r became = (withPlug (s.aspectOrder b true), false)) ∧
      (unplugs → s.stage4 b r became = (withPlug after, true)) ∧
      (¬starts → ¬unplugs → s.stage4 b r became = (withPlug s, false))) ∧
    (runs → r.stop = true → x.stop = false → s.stage5 b r = (withStop after, true)) ∧
    (¬(runs ∧ r.stop = true ∧ x.stop = false) → s.stage5 b r = (withStop s, false))

/-! ### Reports and the bay link (chapters 2 and 9) -/

/-- R25, R26, R27, R136: stage 1. A bay that leaves service by the part's own action: OUT_OF_SERVICE with the reason and the aspect, its
deadline gone, a HELD record re-homed and kept hold cleared, BAY_ALERT raised. A post fault by the bay's state: in service it leaves for
POST_FAULT; from DETECTOR_FAULT, UNHEARD or LINK_LOST the reason changes; in each case a session ends with no STOP, the stranded grant is
set from the acknowledged grant and the grant in force, never lowered, and a run is called for; at POST_FAULT or OPERATOR only a higher
stranded grant is set. A detector fault takes a bay in service out, or replaces UNHEARD or LINK_LOST, and ends nothing. (The gate is
tested in stage 1, at a bay in service alone: notes/assumptions/16.md.) -/
def Obligations.FaultsTakeTheBayOut : Prop :=
  ∀ (s : State) (b : BayNo) (p : BayPlan), (s.bay b).place = some p →
    let x := s.bay b
    (∀ reason : Reason,
      let out : State := { s with
        bays := s.bays.set b.val { x with state := .outOfService, aspect := .outOfService, reason := some reason }
        deadlines := s.deadlines.filter fun d => d.owner != .bay b }
      let alerted (u : State) : State := { u with
        bays := u.bays.set b.val { u.bay b with keptHold := false }, notices := u.notices.raise .bayAlert }
      (∀ i r, x.bound = some i → s.record i = some r → r.state = .held → s.leaveService b reason = alerted (out.rehome i)) ∧
      ((∀ i r, x.bound = some i → s.record i = some r → r.state ≠ .held) → s.leaveService b reason = alerted out) ∧
      s.changeReason b reason = { out with deadlines := s.deadlines, notices := s.notices.raise .bayAlert }) ∧
    (∀ v : Nat,
      let old := (s.grant b).stranded
      s.strand b v = { s with
        grants := s.grants.set b.val { s.grant b with stranded := max old v, zeroAcked := false }
        feeders := s.feeders.set p.feeder.val
          { s.feeder p.feeder with stranded := (s.feeder p.feeder).stranded + (max old v - old) } }) ∧
    ∀ r : Report,
      let v := max (s.grant b).acknowledged r.inForce
      let postFault := r.fault ≠ 0 ∨ r.plug = .postFault
      let detectorFault := ¬postFault ∧ r.occupancy = .detectorFault
      let inService := x.state ≠ .unplanned ∧ x.state ≠ .outOfService
      let outFor (reasons : List Reason) : Prop := x.state = .outOfService ∧ ∃ y ∈ reasons, x.reason = some y
      (postFault → inService → s.stage1 b r =
        ((((s.leaveService b .postFault).endSession b false true).strand b v).testGateOf b, true)) ∧
      (postFault → outFor [.detectorFault, .unheard, .linkLost] →
        s.stage1 b r = (((s.changeReason b .postFault).endSession b false true).strand b v, true)) ∧
      (postFault → outFor [.postFault, .operator] →
        s.stage1 b r = if (s.grant b).stranded < v then (s.strand b v, true) else (s, false)) ∧
      (detectorFault → inService → s.stage1 b r = (s.leaveService b .detectorFault, false)) ∧
      (detectorFault → outFor [.unheard, .linkLost] → s.stage1 b r = (s.changeReason b .detectorFault, false)) ∧
      (detectorFault → outFor [.detectorFault, .postFault, .operator] → s.stage1 b r = (s, false)) ∧
      (¬postFault → r.occupancy ≠ .detectorFault → s.stage1 b r = (s, false))

/-- R28, R29, R30, R31: stage 2. OCCUPIED after EMPTY: a FREE bay becomes IDENTIFYING with IDENTIFY_END, a HELD one too, its hold kept
and its HOLD_END removed; any other bay stores it; OCCUPIED clears occupancy held. EMPTY after OCCUPIED with the plug last UNPLUGGED is a
departure: a BLOCKED bay, and an IDENTIFYING one with no kept hold, becomes FREE and is offered; an ENGAGED or OVERSTAY one too, its
record retired COMPLETED, LEFT_UNCHARGED or OVERSTAYED first; an IDENTIFYING one with kept hold is HELD again with a new HOLD_END; at an
OUT_OF_SERVICE one a bound ENGAGED or OVERSTAY record is retired and nothing is offered. With the plug not UNPLUGGED the report is held as
OCCUPIED and counted. EMPTY after EMPTY, and code DETECTOR_FAULT, change nothing. -/
def Obligations.OccupancyMovesTheBay : Prop :=
  ∀ (s : State) (b : BayNo) (r : Report) (plan : Plan), s.plan = some plan →
    let x := s.bay b
    let arrives := r.occupancy = .occupied ∧ x.occupancy = .empty
    let departs := r.occupancy = .empty ∧ x.occupancy = .occupied ∧ x.plug = .unplugged
    let here : Bay := { x with occupancy := .occupied, occupancyHeld := false }
    let identifying := insertByDue ⟨.identifyEnd, .bay b, min (s.clock + plan.site.identifyTime) 0xFFFFFFFF⟩
    let left : State := { s with
      bays := s.bays.set b.val { x with occupancy := .empty, credential := none, occupancyHeld := false }
      deadlines := s.deadlines.filter fun d => d.owner != .bay b }
    let outcome (y : Reservation) : Ending := if y.state = .overstay then .overstayed
      else if y.sessionDone then .completed else .leftUncharged
    (arrives → x.state = .free → s.stage2 b r = { s with
      bays := s.bays.set b.val { here with state := .identifying, aspect := .inUse, reason := none }
      deadlines := identifying (s.deadlines.filter fun d => d.owner != .bay b) }) ∧
    (∀ i, arrives → x.state = .held → x.bound = some i → s.stage2 b r = { s with
      bays := s.bays.set b.val { here with state := .identifying, aspect := .inUse, reason := none, keptHold := true }
      deadlines := (identifying (s.deadlines.filter fun d => d.owner != .bay b)).filter fun d => d.owner != .slot i }) ∧
    (r.occupancy = .occupied → x.occupancy = .occupied ∨ x.state ≠ .free ∧ x.state ≠ .held →
      s.stage2 b r = { s with bays := s.bays.set b.val here }) ∧
    (departs → x.state = .blocked ∨ x.state = .identifying ∧ x.keptHold = false →
      s.stage2 b r = (left.enter b .free).offer b) ∧
    (∀ i y, departs → x.bound = some i → s.record i = some y →
      x.state = .engaged ∧ y.state = .engaged ∨ x.state = .overstay ∧ y.state = .overstay →
      s.stage2 b r = ((left.retire i (outcome y)).enter b .free).offer b) ∧
    (∀ i y, departs → x.state = .identifying → x.keptHold = true → x.bound = some i → s.record i = some y →
      s.stage2 b r = { left with
        bays := s.bays.set b.val
          { x with
            occupancy := .empty, credential := none, occupancyHeld := false
            state := .held, aspect := .reserved, reason := none, keptHold := false }
        deadlines := insertByDue ⟨.holdEnd, .slot i, min (s.clock + y.hold) 0xFFFFFFFF⟩
          (left.deadlines.filter fun d => d.owner != .slot i) }) ∧
    (∀ i y, departs → x.state = .outOfService → x.bound = some i → s.record i = some y →
      y.state = .engaged ∨ y.state = .overstay → s.stage2 b r = left.retire i (outcome y)) ∧
    (departs → x.state = .outOfService → x.bound = none → s.stage2 b r = left) ∧
    (r.occupancy = .empty → x.occupancy = .occupied → x.plug ≠ .unplugged →
      s.stage2 b r = ({ s with bays := s.bays.set b.val { x with occupancyHeld := true } } : State).bump .detectorDisagree) ∧
    (r.occupancy = .empty → x.occupancy = .empty → s.stage2 b r = s) ∧
    (r.occupancy = .detectorFault → s.stage2 b r = s)

/-- R24, R32, R36, R143, R145, R159, R162, R166, R167, R169: a good REPORT of a reachable unit whose bay does not re-derive: the unit is
ACTIVE with countdown 3; the bay takes stages 1 to 6 in their order, each on what the stages before it left, then one run if any of them
called for it, then stages 7 and 8; then the event's aspect orders and the lane's next exchange (in that order: notes/assumptions/21.md).
Stage 3 presents a credential that is not the last one seen at an OCCUPIED bay, and then stores it (none with DETECTOR_FAULT:
notes/assumptions/13.md); stage 6 stores the demand and calls for a run where it changes under a session; stage 7 stores the metered
power, moves the feeder's load by the difference, evaluates its trim and takes a run if the step changed. A report that brings nothing
new is stored and changes nothing else. -/
def Obligations.AReportIsTakenInItsStages : Prop :=
  (∀ (s : State) (l : LaneNo) (frame : List Byte) (x : Exchange),
    (s.lane l).line = some x → x.order = none → x.removed = false → judgeReply x frame = none →
    (s.unit x.bay).link = .active ∨ (s.unit x.bay).link = .silent →
    ¬((s.bay x.bay).state = .outOfService ∧ (s.bay x.bay).returnRequested = true) →
    let r := readReport ((frame.drop 2).take 17)
    let b := x.bay
    let heard : State := { s with
      lanes := s.lanes.set l.val
        { s.lane l with line := none, queue := (s.lane l).queue.map fun e => { e with onLine := false } }
      units := s.units.set b.val { s.unit b with link := .active, countdown := 3 } }
    let e := heard.stages1to6 b r
    let u := if e.2 then e.1.allocationRun else e.1
    exec (.report l frame) s = .next ((State.aspectOrders s ((u.stage7 b r).stage8 b r)).chooseNext l)) ∧
  (∀ (s : State) (b : BayNo) (r : Report),
    let x := s.bay b
    (let e1 := s.stage1 b r
     let s2 := e1.1.stage2 b r
     let s3 := s2.stage3 b r
     let e4 := s3.stage4 b r (decide ((s2.bay b).state ≠ .engaged ∧ (s3.bay b).state = .engaged))
     let e5 := e4.1.stage5 b r
     let e6 := e5.1.stage6 b r
     s.stages1to6 b r = (e6.1, e1.2 || e4.2 || e5.2 || e6.2)) ∧
    (∀ c, r.cred = some c → r.occupancy ≠ .detectorFault → x.occupancy = .occupied → x.credential ≠ some c →
      let u := s.present b c
      s.stage3 b r = { u with bays := u.bays.set b.val { u.bay b with credential := some c } }) ∧
    (r.cred = none ∨ r.cred = x.credential ∨ x.occupancy ≠ .occupied ∨ r.occupancy = .detectorFault → s.stage3 b r = s) ∧
    s.stage6 b r = ({ s with bays := s.bays.set b.val { x with demand := r.demand } },
      decide (x.demand ≠ r.demand) && s.charging b) ∧
    ∀ p m, x.place = some p → (s.feeder p.feeder).monitor = some m →
      let e := ({ s with
        bays := s.bays.set b.val { x with metered := r.metered }
        feeders := s.feeders.set p.feeder.val
          { s.feeder p.feeder with monitor := some { m with load := m.load - x.metered + r.metered } } } : State).evaluateTrim
            p.feeder
      s.stage7 b r = if e.2 then e.1.allocationRun else e.1) ∧
  ∀ (s : State) (l : LaneNo) (frame : List Byte) (x : Exchange) (p : BayPlan) (m : Monitor),
    (s.lane l).line = some x → x.order = none → x.removed = false → judgeReply x frame = none →
    (s.bay x.bay).place = some p → (s.unit x.bay).link.reachable = true → (s.bay x.bay).returnRequested = false →
    let r := readReport ((frame.drop 2).take 17)
    let b := x.bay
    r.fault = 0 → r.plug ≠ .postFault → r.cred = none → r.plug = (s.bay b).plug → r.stop = (s.bay b).stop →
    r.demand = (s.bay b).demand →
    (r.occupancy = .empty ∧ (s.bay b).occupancy = .empty ∨ r.occupancy = .occupied ∧ (s.bay b).occupancy = .occupied) →
    (s.bay b).occupancyHeld = false → (s.bay b).state ≠ .outOfService →
    (s.grant b).outstanding = none → (s.grant b).stranded = 0 → r.inForce = (s.grant b).acknowledged →
    r.aspect = (s.bay b).aspect.code → (s.feeder p.feeder).monitor = some m → m.state = .normal → m.step = 0 →
    m.load - (s.bay b).metered + r.metered ≤ m.high →
    let t : State := { s with
      bays := s.bays.set b.val { s.bay b with metered := r.metered }
      units := s.units.set b.val { link := .active, countdown := 3, mismatch := 0, resends := 0 }
      feeders := s.feeders.set p.feeder.val
        { s.feeder p.feeder with monitor := some { m with load := m.load - (s.bay b).metered + r.metered } }
      lanes := s.lanes.set l.val
        { s.lane l with line := none, queue := (s.lane l).queue.map fun e => { e with onLine := false } } }
    exec (.report l frame) s = .next (t.chooseNext l)

/-- R39, R165, R137, R166: the first good REPORT of an UNHEARD or LOST unit makes it ACTIVE with its verify counts 0 and queues its zero
STOP before the report is taken; the bay re-derives at reason UNHEARD or LINK_LOST, or, at any good report, with return requested set;
else it takes stages 1 to 6; then the run, stages 7 and 8, the aspect orders and the lane's choice. A re-derivation takes stage 1, stores
occupancy, credential, plug, stop and demand (at a first reply retiring, presenting and ending nothing; else stages 2, 4 and 5 act) and
clears return requested; with no fault in the report, a bay with a stranded grant that returns from POST_FAULT or OPERATOR gets its STOP
and the bay takes its row: by its occupancy and bound record FREE and offered, its record retired LEFT_UNSEEN first; ENGAGED, CHARGING or
OVERSTAY again; or IDENTIFYING with the fresh credential presented. A bay left ENGAGED starts a session at a plugged post, or else its
grace. (Corners: notes/assumptions/13.md, 14.md, 15.md and 21.md.) -/
def Obligations.FirstRepliesAndReturnsRederive : Prop :=
  (∀ (s : State) (l : LaneNo) (frame : List Byte) (x : Exchange),
    (s.lane l).line = some x → x.order = none → x.removed = false → judgeReply x frame = none →
    let r := readReport ((frame.drop 2).take 17)
    let b := x.bay
    let out := (s.bay b).state = .outOfService
    let freed : State := { s with
      lanes := s.lanes.set l.val
        { s.lane l with line := none, queue := (s.lane l).queue.map fun e => { e with onLine := false } } }
    let ends (e : State × Bool) : Prop :=
      let u := if e.2 then e.1.allocationRun else e.1
      exec (.report l frame) s = .next ((State.aspectOrders s ((u.stage7 b r).stage8 b r)).chooseNext l)
    ((s.unit b).link = .unheard ∨ (s.unit b).link = .lost →
      let u := ({ freed with
        units := s.units.set b.val { link := .active, countdown := 3, mismatch := 0, resends := 0 } } : State).handGrant b 0 .stop
      (out → (s.bay b).returnRequested = true ∨ (s.bay b).reason = some .unheard ∨ (s.bay b).reason = some .linkLost →
        ends (u.rederive true b r)) ∧
      (out → (s.bay b).returnRequested = false → (s.bay b).reason ≠ some .unheard → (s.bay b).reason ≠ some .linkLost →
        ends (u.stages1to6 b r))) ∧
    ((s.unit b).link = .active ∨ (s.unit b).link = .silent → out → (s.bay b).returnRequested = true →
      ends (({ freed with
        units := s.units.set b.val { s.unit b with link := .active, countdown := 3 } } : State).rederive false b r))) ∧
  (∀ (s : State) (b : BayNo) (r : Report) (first : Bool),
    let withBay (u : State) (y : Bay) : State := { u with bays := u.bays.set b.val y }
    let e1 := s.stage1 b r
    let y := e1.1.bay b
    let stored : State :=
      if r.occupancy = .occupied then withBay e1.1 { y with occupancy := .occupied, occupancyHeld := false }
      else if r.occupancy = .empty ∧ y.occupancy = .occupied then
        if y.plug = .unplugged then withBay e1.1 { y with occupancy := .empty, credential := none, occupancyHeld := false }
        else (withBay e1.1 { y with occupancyHeld := true }).bump .detectorDisagree
      else e1.1
    let s2 := if first then stored else e1.1.stage2 b r
    let fresh : Option Credential := match r.cred with
      | some c => if r.occupancy ≠ .detectorFault ∧ (s2.bay b).occupancy = .occupied ∧ (s2.bay b).credential ≠ some c
          then some c else none
      | none => none
    let s3 := match fresh with | some c => withBay s2 { s2.bay b with credential := some c } | none => s2
    let e4 := if first then (withBay s3 { s3.bay b with plug := r.plug }, false) else s3.stage4 b r false
    let e5 := if first then (withBay e4.1 { e4.1.bay b with stop := r.stop }, false) else e4.1.stage5 b r
    let e6 := e5.1.stage6 b r
    let s7 := withBay e6.1 { e6.1.bay b with returnRequested := false }
    let called := e1.2 || e4.2 || e5.2 || e6.2
    let fault := r.fault ≠ 0 ∨ r.plug = .postFault ∨ r.occupancy = .detectorFault
    let stops := (s.bay b).returnRequested = true ∧ 0 < (s.grant b).stranded ∧
      ((s.bay b).reason = some .postFault ∨ (s.bay b).reason = some .operator)
    let e9 := (if stops then s7.makeStop b else s7).rederiveRow b r fresh
    (fault → s.rederive first b r = (s7, called)) ∧ (¬fault → s.rederive first b r = (e9.1, called || e9.2))) ∧
  ∀ (s : State) (b : BayNo) (r : Report) (fresh : Option Credential) (plan : Plan), s.plan = some plan →
    let x := s.bay b
    (x.occupancy = .empty → x.bound = none → s.rederiveRow b r fresh = ((s.enter b .free).offer b, false)) ∧
    (∀ i, x.occupancy = .empty → x.bound = some i →
      s.rederiveRow b r fresh = (((s.retire i .leftUnseen).enter b .free).offer b, false)) ∧
    (∀ i y, x.occupancy = .occupied → x.bound = some i → s.record i = some y →
      (y.state = .engaged → s.rederiveRow b r fresh = (s.enter b .engaged).resumeEngaged b r) ∧
      (y.state = .charging → s.rederiveRow b r fresh = (s.enter b .charging, false)) ∧
      (y.state = .overstay → s.rederiveRow b r fresh = (s.enter b .overstay, false))) ∧
    (x.occupancy = .occupied → x.bound = none →
      let t := (s.enter b .identifying).startDeadline .identifyEnd (.bay b) plan.site.identifyTime
      s.rederiveRow b r fresh = (match fresh with | some c => t.present b c | none => t).resumeEngaged b r) ∧
    (x.state ≠ .engaged → s.resumeEngaged b r = (s, false)) ∧
    ∀ i y, x.state = .engaged → x.bound = some i → s.record i = some y →
      let plugged := r.plug = .plugged ∨ r.plug = .charging
      let graced (u : State) : State := u.startDeadline .graceEnd (.bay b) plan.site.graceTime
      (plugged → y.stayExhausted = false → s.resumeEngaged b r = (s.startSession b i, true)) ∧
      (plugged → y.stayExhausted = true → s.resumeEngaged b r = (graced (s.aspectOrder b true), false)) ∧
      (¬plugged → y.sessionDone = true ∨ y.stayExhausted = true → s.resumeEngaged b r = (graced s, false)) ∧
      (¬plugged → y.sessionDone = false → y.stayExhausted = false → s.resumeEngaged b r = (s, false))

/-- R137, R167, R168, R169, R136: stage 8: the verify, then the returning-unit rule, then the aspect comparison (the order of the three is the
model's choice: notes/assumptions/29.md), then one run if called for. The verify by its conditions: no comparison at a POST_FAULT bay or with an order outstanding; agreement clears both counts; the
second mismatch re-sends the acknowledged grant, or after four re-sends judges the post faulty: the bay leaves service, or changes its
reason, for POST_FAULT, a session ends with no STOP, the stranded grant is set, the counts return to 0, the gate is tested and a run is
called for. A stranded grant clears where a zero order has been acknowledged, none is outstanding and 0 is in force. An aspect that
differs, with nothing queued or on the line for the unit, is ordered again. -/
def Obligations.StageEightVerifiesAndReturns : Prop :=
  ∀ (s : State) (b : BayNo) (r : Report),
    let g := s.grant b
    let x := s.bay b
    let u := s.unit b
    let counts (t : State) (mismatch resends : Nat) : State := { t with
      units := t.units.set b.val { t.unit b with mismatch := mismatch, resends := resends } }
    let faulty := x.state = .outOfService ∧ x.reason = some .postFault
    let compared := ¬faulty ∧ g.outstanding = none
    let differs := compared ∧ r.inForce ≠ g.acknowledged
    (let e := s.verify b r.inForce
     let f := e.1.returningUnit b r.inForce
     let t := f.1.compareAspect b r.aspect
     s.stage8 b r = if e.2 || f.2 then t.allocationRun else t) ∧
    (faulty → s.verify b r.inForce = (counts s 0 0, false)) ∧
    (¬faulty → g.outstanding ≠ none → s.verify b r.inForce = (counts s 0 u.resends, false)) ∧
    (compared → r.inForce = g.acknowledged → s.verify b r.inForce = (counts s 0 0, false)) ∧
    (differs → u.mismatch = 0 → s.verify b r.inForce = (counts s 1 u.resends, false)) ∧
    (differs → 1 ≤ u.mismatch → u.resends < 4 →
      let runs : Prop := ∃ i q, x.bound = some i ∧ s.record i = some q ∧ q.state = .charging
      ∀ flag : OrderFlag, (runs → flag = .plain) → (¬runs → flag = .stop) →
        let o : GrantOrder := ⟨g.acknowledged, flag, false⟩
        let l := s.lane (laneOf b)
        s.verify b r.inForce = (counts { s with
          grants := s.grants.set b.val { g with outstanding := some o }
          lanes := s.lanes.set (laneOf b).val { l with queue := queueGrant b o l.queue } } 0 (u.resends + 1), false)) ∧
    (differs → 1 ≤ u.mismatch → 4 ≤ u.resends → x.state ≠ .unplanned →
      let out := if x.state = .outOfService then s.changeReason b .postFault else s.leaveService b .postFault
      let stranded := (out.endSession b false true).strand b (max g.acknowledged r.inForce)
      s.verify b r.inForce = ((counts stranded 0 0).testGateOf b, true)) ∧
    (∀ p, x.place = some p →
      let clears := 0 < g.stranded ∧ g.zeroAcked = true ∧ g.acknowledged = 0 ∧ g.outstanding = none ∧ r.inForce = 0
      (clears → s.returningUnit b r.inForce = ({ s with
        grants := s.grants.set b.val { g with stranded := 0 }
        feeders := s.feeders.set p.feeder.val
          { s.feeder p.feeder with stranded := (s.feeder p.feeder).stranded - g.stranded } }, true)) ∧
      (¬clears → s.returningUnit b r.inForce = (s, false))) ∧
    let busy := (∃ e ∈ (s.lane (laneOf b)).queue, e.bay = b) ∨ ∃ y, (s.lane (laneOf b)).line = some y ∧ y.bay = b
    (busy ∨ r.aspect = x.aspect.code → s.compareAspect b r.aspect = s) ∧
    (¬busy → r.aspect ≠ x.aspect.code → s.compareAspect b r.aspect = s.aspectOrder b false)

/-- R156, R157, R195, 12.5: how the received bytes of an exchange are judged. The CRC-16 runs over the bytes, most significant bit first,
from 0xFFFF with the generator x^16 + x^12 + x^5 + 1. No byte is a missing reply; fewer bytes than the request's reply has (21 to a POLL,
7 to an ORDER), or a carried CRC that differs, high byte first, fail by CRC; then the address, the kind (0x81 to a POLL, 0x82 to an
ORDER) and the echo of the ORDER's grant and aspect are compared, in that order; a frame that passes is good. (That bytes beyond the
reply's length are not judged is the model's reading: notes/assumptions/12.md.) A REPORT frame made of a bay's address, the fields of a
report in their ranges and the CRC is a good reply to a POLL of that bay and decodes to exactly that report; an ACK frame that echoes an
order is a good reply to it. A payload's byte outside its codes decodes as R195 says: an occupancy above 2 to DETECTOR_FAULT, a plug above
3 to POST_FAULT, a stop or presence byte other than 0 as set, a credential 0 as absent. -/
def Obligations.ReplyFramesAreJudgedAndDecoded : Prop :=
  (∀ bytes : List Byte,
    let shift (r : BitVec 16) (bit : Bool) : BitVec 16 := (r <<< 1) ^^^ (if r.msb = bit then 0 else 0x1021)
    crc16 bytes = (bytes.flatMap fun x => (List.range 8).map fun k => x.getLsbD (7 - k)).foldl shift 0xFFFF) ∧
  (∀ (x : Exchange) (received : List Byte),
    let n := if x.order = none then 21 else 7
    let kind : Byte := if x.order = none then 0x81 else 0x82
    let frame := received.take n
    let at_ (k : Nat) : Byte := frame.getD k 0
    let crc := (at_ (n - 2)).toNat * 256 + (at_ (n - 1)).toNat
    let whole := n ≤ received.length ∧ crc = (crc16 (frame.take (n - 2))).toNat
    let addressed := (at_ 0).toNat = x.bay.val % 128
    let echoed := ∀ o, x.order = some o → [at_ 2, at_ 3, at_ 4] = le 2 o.grant ++ le 1 o.aspect.code
    (received = [] → judgeReply x received = some .missingReply) ∧
    (received ≠ [] → ¬whole → judgeReply x received = some .crc) ∧
    (whole → ¬addressed → judgeReply x received = some .address) ∧
    (whole → addressed → at_ 1 ≠ kind → judgeReply x received = some .kind) ∧
    (whole → addressed → at_ 1 = kind → ¬echoed → judgeReply x received = some .echo) ∧
    (whole → addressed → at_ 1 = kind → echoed → judgeReply x received = none)) ∧
  (∀ payload : List Byte,
    let r := readReport payload
    let value (k : Nat) : Nat := (payload.getD k 0).toNat
    let credential := (List.range 5).foldr (fun k v => value (3 + k) + 256 * v) 0
    r.occupancy = (if value 1 = 0 then .empty else if value 1 = 1 then .occupied else .detectorFault) ∧
    r.plug = (if value 8 = 0 then .unplugged else if value 8 = 1 then .plugged else if value 8 = 2 then .charging else .postFault) ∧
    r.stop = decide (value 9 ≠ 0) ∧
    r.cred = if value 2 = 0 ∨ credential = 0 then none else some (BitVec.ofNat 40 credential)) ∧
  ∀ (b : BayNo) (timeout : Nat),
    (∀ r : Report, r.fault < 256 → r.cred ≠ some 0 → r.demand < 65536 → r.metered < 65536 → r.inForce < 65536 →
      r.aspect < 256 →
      judgeReply { bay := b, timeout := timeout, order := none } (reportFrame b r) = none ∧
        readReport (((reportFrame b r).drop 2).take 17) = r) ∧
    ∀ o : OrderContent, judgeReply { bay := b, timeout := timeout, order := some o } (ackFrame b o) = none

/-- R161, R133, R162, R14, R172: a good ACK frees the line, takes the entry off the queue and makes the unit ACTIVE; a grant order's is
the acknowledgement of the bay's outstanding order, its pending target settled by the four cases of R133 and the feeder's gate tested;
an aspect-only entry's, or one a soft reset has dropped, changes no grant; one of a removed bay is discarded. -/
def Obligations.AnAckSettlesTheOrder : Prop :=
  ∀ (s : State) (l : LaneNo) (frame : List Byte) (x : Exchange) (o : OrderContent),
    (s.lane l).line = some x → x.order = some o → judgeReply x frame = none →
    let b := x.bay
    let freed : State := { s with
      lanes := s.lanes.set l.val
        { s.lane l with
          line := none
          queue := ((s.lane l).queue.filter fun e => !e.onLine).map fun e => { e with onLine := false } } }
    let heard : State := { freed with units := s.units.set b.val { s.unit b with link := .active, countdown := 3 } }
    (x.removed = true → exec (.ack l frame) s = .next (freed.chooseNext l)) ∧
    (x.removed = false → o.isGrant = false ∨ x.dropped = true → exec (.ack l frame) s = .next (heard.chooseNext l)) ∧
    ∀ g, x.removed = false → o.isGrant = true → x.dropped = false → (s.grant b).outstanding = some g →
      let acked : State := { heard with
        grants := s.grants.set b.val
          { s.grant b with
            acknowledged := g.value, outstanding := none, pending := none
            zeroAcked := (s.grant b).zeroAcked || decide (g.value = 0 ∧ 0 < (s.grant b).stranded) } }
      let settled := match (s.grant b).pending with
        | none => acked
        | some v =>
          if v.value < g.value then acked.handGrant b v.value v.flag
          else if v.value = g.value then (if v.flag = OrderFlag.start then acked.handGrant b v.value v.flag else acked)
          else if acked.gateOpenOf b then acked.handGrant b v.value v.flag
          else acked.modGrant b fun y => { y with heldBack := some v }
      exec (.ack l frame) s = .next ((settled.testGateOf b).chooseNext l)

/-- R156, R161 to R164, R136, R25, R14, R170: a reply timeout, and a reply frame that fails a check, fail the exchange: LINK_FAILURES counts, the
unit's link state moves by the table, the entry stays in the queue, and nothing else changes before the lane chooses its next. The
third failure in a row makes the unit LOST: UNITS_LOST counts, its entries leave the queue, its verify counts are 0, its orders and its
held-back increase are gone and its stranded grant set from the committed grant, the gate is tested; a bay in service leaves for
LINK_LOST, one out for DETECTOR_FAULT changes to LINK_LOST, either with its session ended without an order, one out for POST_FAULT or
OPERATOR keeps its reason; then one run, the aspect orders and the lane's choice (in that order: notes/assumptions/21.md). A frame with
no exchange on its lane is discarded uncounted. The end of an exchange with a bay a plan apply has removed, good or failed, a POLL's or an
ORDER's, is discarded: it frees the line, the entry leaves, nothing is counted and no link state moves, before the lane's choice. -/
def Obligations.FailedExchangesSilenceTheUnit : Prop :=
  ∀ (s : State) (l : LaneNo),
    (∀ frame, exec (.lateFrame l frame) s = .next s) ∧
    ((s.lane l).line = none → exec (.replyTimeout l) s = .next s ∧
      ∀ frame, exec (.badReplyFrame l frame) s = .next s ∧ exec (.report l frame) s = .next s ∧
        exec (.ack l frame) s = .next s) ∧
    (∀ (c : Instr) (x : Exchange) (frame : List Byte), (s.lane l).line = some x → x.removed = true →
      c = .replyTimeout l ∨ c = .badReplyFrame l frame ∨ c = .report l frame ∨ c = .ack l frame →
      exec c s = .next (({ s with
        lanes := s.lanes.set l.val
          { s.lane l with
            line := none
            queue := ((s.lane l).queue.filter fun e => !e.onLine).map fun e => { e with onLine := false } } } : State).chooseNext l)) ∧
    ∀ (c : Instr) (x : Exchange), (s.lane l).line = some x → x.removed = false →
      (c = .replyTimeout l ∨ ∃ frame, judgeReply x frame ≠ none ∧
        (c = .badReplyFrame l frame ∨ c = .report l frame ∨ c = .ack l frame)) →
      let b := x.bay
      let u := s.unit b
      let fails (v : BayUnit) : State := ({ s with
        lanes := s.lanes.set l.val
          { s.lane l with line := none, queue := (s.lane l).queue.map fun e => { e with onLine := false } }
        units := s.units.set b.val v } : State).bump .linkFailures
      (u.link = .unheard ∨ u.link = .lost → exec c s = .next ((fails { u with countdown := 0 }).chooseNext l)) ∧
      (u.link = .active → exec c s = .next ((fails { u with link := .silent, countdown := 2 }).chooseNext l)) ∧
      (u.link = .silent → u.countdown = 2 → exec c s = .next ((fails { u with countdown := 1 }).chooseNext l)) ∧
      ∀ p, u.link = .silent → u.countdown = 1 → (s.bay b).place = some p →
        let g := s.grant b
        let committed := match g.outstanding with | some o => max g.acknowledged o.value | none => g.acknowledged
        let counted := (fails { link := .lost, countdown := 0, mismatch := 0, resends := 0 }).bump .unitsLost
        let lane := counted.lane (laneOf b)
        let lost : State := { counted with
          lanes := counted.lanes.set (laneOf b).val { lane with queue := lane.queue.filter fun e => e.bay != b }
          grants := s.grants.set b.val
            { g with
              outstanding := none, pending := none, heldBack := none, stranded := max g.stranded committed, zeroAcked := false }
          feeders := s.feeders.set p.feeder.val
            { s.feeder p.feeder with
              stranded := (s.feeder p.feeder).stranded + (max g.stranded committed - g.stranded) } }
        let tested := lost.testGate p.feeder
        let ends (t : State) : Prop := exec c s = .next ((State.aspectOrders s t.allocationRun).chooseNext l)
        ((s.bay b).state ≠ .unplanned → (s.bay b).state ≠ .outOfService →
          ends ((tested.leaveService b .linkLost).endSession b false true)) ∧
        ((s.bay b).state = .outOfService → (s.bay b).reason = some .detectorFault →
          ends ((tested.changeReason b .linkLost).endSession b false true)) ∧
        ((s.bay b).state = .outOfService → (s.bay b).reason = some .postFault ∨ (s.bay b).reason = some .operator → ends tested)

/-- R159, R160, R155, R130: the lane's choice: a POLL of the next address after eight orders in a row while a bay is planned; else the
ORDER of the first decrease, else of the first entry; else a POLL, else idle. The next address is the lowest planned one above the
cursor, or the lowest; an ORDER carries its grant, its flag and flash, and the aspect of its bay as it starts. -/
def Obligations.ALaneChoosesItsNextExchange : Prop :=
  ∀ (s : State) (l : LaneNo),
    let x := s.lane l
    let planned (a : LaneAddr) : Prop := (s.bay (bayAt l a)).place ≠ none
    let timeout := match s.plan with | some plan => plan.site.replyTimeouts[l.val] | none => 0
    let next (a : LaneAddr) : Prop := planned a ∧ ((∃ c, x.cursor = some c ∧ c < a ∧ ∀ a', planned a' → c < a' → a ≤ a') ∨
      (∀ c, x.cursor = some c → ∀ a', planned a' → a' ≤ c) ∧ ∀ a', planned a' → a ≤ a')
    let polls (a : LaneAddr) : State := { s with
      lanes := s.lanes.set l.val
        { x with
          line := some { bay := bayAt l a, timeout := timeout, order := none }, cursor := some a, orderCount := 0
          sent := linkFrame a 0x01 [] } }
    let orders (front : List Entry) (e : Entry) (back : List Entry) (o : OrderContent) : State := { s with
      lanes := s.lanes.set l.val
        { x with
          line := some { bay := e.bay, timeout := timeout, order := some o }
          queue := front ++ { e with onLine := true } :: back
          orderCount := min 8 (x.orderCount + 1)
          sent := linkFrame (addrOf e.bay) 0x02
            (le 2 o.grant ++ le 1 (orderFlags o.flag o.flash) ++ le 1 o.aspect.code) } }
    let orderTurn := x.orderCount < 8 ∨ ∀ a, ¬planned a
    (∀ a, 8 ≤ x.orderCount → next a → s.chooseNext l = polls a) ∧
    (∀ front e back g, orderTurn → x.queue = front ++ e :: back → e.grant = some g → g.decrease = true →
      (∀ y ∈ front, ∀ h, y.grant = some h → h.decrease = false) →
      s.chooseNext l = orders front e back ⟨g.value, g.flag, (s.bay e.bay).aspect, e.flash, true⟩) ∧
    (∀ e back, orderTurn → x.queue = e :: back → (∀ y ∈ x.queue, ∀ h, y.grant = some h → h.decrease = false) →
      (∀ g, e.grant = some g → s.chooseNext l = orders [] e back ⟨g.value, g.flag, (s.bay e.bay).aspect, e.flash, true⟩) ∧
      (e.grant = none → s.chooseNext l = orders [] e back
        ⟨match (s.grant e.bay).outstanding with | some o => o.value | none => (s.grant e.bay).acknowledged, .plain,
          (s.bay e.bay).aspect, e.flash, false⟩)) ∧
    (∀ a, x.orderCount < 8 → x.queue = [] → next a → s.chooseNext l = polls a) ∧
    (x.queue = [] → (∀ a, ¬planned a) → s.chooseNext l = { s with lanes := s.lanes.set l.val { x with orderCount := 0 } })

/-- R158, R23, R21: how orders join a lane's queue. A grant order joins at the tail; an aspect-only entry queued for the unit leaves, its
refuse flash taken over. An aspect-only order joins at the tail where no entry of the unit is queued; else it sets the refuse flash of
the queued entry, if it carries one, and nothing joins (of two queued entries the first takes it: notes/assumptions/10.md). An entry on
the line is not queued. An aspect-only order for an UNHEARD or LOST unit is discarded. An event hands the lanes one order for each planned
bay whose aspect it changed, in ascending bay number. A bay's aspect follows its state. -/
def Obligations.OrdersJoinAndMerge : Prop :=
  (∀ (b : BayNo) (q : List Entry),
    let queued (e : Entry) : Prop := e.bay = b ∧ e.onLine = false
    (∀ o : GrantOrder, (∀ e ∈ q, queued e → e.grant ≠ none) → queueGrant b o q = q ++ [⟨b, some o, false, false⟩]) ∧
    (∀ (o : GrantOrder) front e back, q = front ++ e :: back → queued e → e.grant = none →
      (∀ y ∈ front ++ back, queued y → y.grant ≠ none) →
      queueGrant b o q = front ++ back ++ [⟨b, some o, e.flash, false⟩]) ∧
    (∀ flash : Bool, (∀ e ∈ q, ¬queued e) → queueAspect b flash q = q ++ [⟨b, none, flash, false⟩]) ∧
    (∀ (flash : Bool) front e back, q = front ++ e :: back → queued e → (∀ y ∈ front, ¬queued y) →
      queueAspect b flash q = front ++ { e with flash := e.flash || flash } :: back)) ∧
  (∀ (s : State) (b : BayNo) (flash : Bool),
    let l := s.lane (laneOf b)
    ((s.unit b).link = .active ∨ (s.unit b).link = .silent → s.aspectOrder b flash = { s with
      lanes := s.lanes.set (laneOf b).val { l with queue := queueAspect b flash l.queue } }) ∧
    ((s.unit b).link = .unheard ∨ (s.unit b).link = .lost → s.aspectOrder b flash = s)) ∧
  (∀ before s : State, State.aspectOrders before s =
    ((List.finRange 512).filter fun b => (s.bay b).place.isSome && (s.bay b).aspect != (before.bay b).aspect).foldl
      (fun t b => t.aspectOrder b false) s) ∧
  ∀ (s : State) (b : BayNo) (st : BayState), s.enter b st = { s with
    bays := s.bays.set b.val
      { s.bay b with
        state := st, reason := none
        aspect := if st = .unplanned then .dark else if st = .free then .available else if st = .held then .reserved
          else if st = .outOfService then .outOfService else .inUse } }

/-! ### Notices, counters and the resets (chapter 11, R186) -/

/-- R188, R189, R190, R191, R192: READ NOTICES answers status, mask, marked count and threshold and clears every flag but CHANGES; SET
NOTICE MASK and SET CHANGE THRESHOLD replace the value and answer it; each leaves the line low exactly while a flag is set with its mask
bit clear, and CHANGES evaluated against the marked count after a new threshold. Raising a flag sets its bit and drives the line. An
increment raises one counter by one, saturating at 0xFFFFFFFF, and raises COUNTER_HIGH exactly where it takes the counter to 0x80000000;
SNAPSHOT COUNTERS copies every counter into the bank, and with clear set returns every counter to 0. Nothing else changes. -/
def Obligations.NoticesAndCountersFollowTheirRules : Prop :=
  ∀ s : State,
    let n := s.notices
    let low (status mask : BitVec 6) : Bool := (status &&& ~~~mask) != 0
    let with_ (m : Notices) : State := { s with notices := m }
    (s.takes .readNotices → exec .readNotices s = .next
      ((with_ { n with status := n.status &&& 1, lineLow := low (n.status &&& 1) n.mask }).answered .readNotices .ok
        (le 1 n.status.toNat ++ le 1 n.mask.toNat ++ le 2 s.markedCount ++ le 1 n.threshold))) ∧
    (∀ mask : Byte, s.takes (.setNoticeMask mask) → mask.toNat ≤ 63 →
      let m := mask.setWidth 6
      exec (.setNoticeMask mask) s = .next ((with_ { n with mask := m, lineLow := low n.status m }).answered
        (.setNoticeMask mask) .ok (le 1 mask.toNat ++ le 1 n.status.toNat))) ∧
    (∀ v : Byte, s.takes (.setChangeThreshold v) → 1 ≤ v.toNat → v.toNat ≤ 64 →
      let status := if v.toNat ≤ s.markedCount then n.status ||| 1 else if s.markedCount = 0 then n.status &&& ~~~1 else n.status
      let evaluated := if v.toNat ≤ s.markedCount ∨ s.markedCount = 0 then low status n.mask else n.lineLow
      exec (.setChangeThreshold v) s = .next ((with_ { n with threshold := v.toNat, status := status, lineLow := evaluated }).answered
        (.setChangeThreshold v) .ok (le 1 v.toNat ++ le 2 s.markedCount))) ∧
    ([Notice.changes, .bayAlert, .feeder, .curtailEnded, .planApplied, .counterHigh].zipIdx.all fun (f, bit) =>
      n.raise f == { n with
        status := n.status ||| BitVec.ofNat 6 (2 ^ bit), lineLow := low (n.status ||| BitVec.ofNat 6 (2 ^ bit)) n.mask }) = true ∧
    (∀ c : Counter, s.bump c = { s with
      counters := s.counters.set c.index.val (min (s.counter c + 1) 0xFFFFFFFF)
      notices := if s.counter c + 1 = 0x80000000 then s.notices.raise .counterHigh else s.notices }) ∧
    (s.takes (.snapshotCounters 0) → exec (.snapshotCounters 0) s =
      .next (({ s with snapshot := s.counters } : State).answered (.snapshotCounters 0) .ok [])) ∧
    (s.takes (.snapshotCounters 1) → exec (.snapshotCounters 1) s =
      .next (({ s with snapshot := s.counters, counters := Vector.replicate 18 0 } : State).answered (.snapshotCounters 1) .ok []))

/-- R186, R19, R45, R73, R108, R119, R121, R141, R153, R172, R193: what RESET leaves. The plan, the clock, the counters and the sequence
numbers are kept; every live record is retired RESET behind the slots that were FREE; the lists, the curtailment and the open sequence
are gone. A bay in service is FREE or IDENTIFYING by its last occupancy, with the new IDENTIFY_ENDs the only deadlines; every bay loses
its binding and its kept hold and keeps its plan data and its last report values. Each pledge falls by the pmin of every binding, so to 0
where it is their sum; X_f and the monitor are kept, E is S and each want follows from X_f. Each lane's queue is the zero STOPs of its
reachable planned units, each the outstanding order of its bay; what is on a line runs on, an ORDER's entry dropped; link states,
countdowns, verify counts, order counts and cursors are kept. Of the notices CHANGES alone may be set. -/
def Obligations.ASoftResetKeepsThePlan : Prop :=
  ∀ s : State, s.takes .reset → ∃ t : State, exec .reset s = .next (t.answered .reset .ok []) ∧
    t.plan = s.plan ∧ t.staged = [] ∧ t.port = { s.port with sequence := none } ∧ t.clock = s.clock ∧ t.curtailment = 0 ∧
    t.counters = s.counters ∧ t.snapshot = s.snapshot ∧ t.sessionSeq = s.sessionSeq ∧ t.bookingSeq = s.bookingSeq ∧
    t.creations = s.creations ∧ t.starts = s.starts ∧ t.pending = s.pending ∧ t.units = s.units ∧
    t.ratioCount = 0 ∧ t.highList = s.highList.filter (fun i => (s.record i).isNone) ∧
    t.normalList = s.normalList.filter (fun i => (s.record i).isNone) ∧
    (∀ i, t.record i = none ∧ ∀ r, s.record i = some r →
      (t.slot i).lastOutcome = some .reset ∧ (t.slot i).mark = true ∧
        (t.slot i).generation.val = ((s.slot i).generation.val + 1) % 64) ∧
    (∀ i, s.record i = none → t.slot i = s.slot i) ∧
    t.freeSlots = s.freeSlots ++ (List.finRange 1024).filter (fun i => (s.record i).isSome) ∧
    (∀ b, t.bay b = { s.bay b with
        state := (t.bay b).state, reason := (t.bay b).reason, aspect := (t.bay b).aspect, bound := (t.bay b).bound
        keptHold := (t.bay b).keptHold, starved := false } ∧
      ((s.bay b).bound = none ∧ (s.bay b).keptHold = false ∨ (∃ i r, s.record i = some r ∧ r.bay = some b) →
        (t.bay b).bound = none ∧ (t.bay b).keptHold = false)) ∧
    (∀ b, (s.bay b).state.inService = true →
      (t.bay b).reason = none ∧
      ((s.bay b).occupancy = .empty → (t.bay b).state = .free ∧ (t.bay b).aspect = .available) ∧
        ((s.bay b).occupancy = .occupied → (t.bay b).state = .identifying ∧ (t.bay b).aspect = .inUse)) ∧
    (∀ b, (s.bay b).state.inService = false → (t.bay b).state = (s.bay b).state ∧ (t.bay b).reason = (s.bay b).reason ∧
      (t.bay b).aspect = (s.bay b).aspect) ∧
    t.deadlines = ((List.finRange 512).filter fun b => (s.bay b).state.inService && (s.bay b).occupancy == .occupied).map
      (fun b => ⟨.identifyEnd, .bay b, min (s.clock + (match s.plan with | some plan => plan.site.identifyTime | none => 0))
        0xFFFFFFFF⟩) ∧
    (let stopped (b : BayNo) : Bool :=
      (s.bay b).place.isSome && ((s.unit b).link == .active || (s.unit b).link == .silent)
    let zeroStop (b : BayNo) : GrantOrder := ⟨0, .stop, decide (0 < (s.grant b).acknowledged)⟩
    (∀ l, t.lane l = { s.lane l with
      queue := ((List.finRange 512).filter fun b => laneOf b == l && stopped b).map fun b => ⟨b, some (zeroStop b), false, false⟩
      line := (s.lane l).line.map fun x => { x with dropped := x.order.isSome } }) ∧
    ∀ b, t.grant b = { s.grant b with
      target := 0, outstanding := if stopped b then some (zeroStop b) else none, pending := none, heldBack := none
      startQueued := false }) ∧
    (∀ f,
      let bindings := ((List.finRange 1024).map fun i =>
        match (s.record i).bind (·.bay) with
        | some b => match (s.bay b).place with
          | some p => if p.feeder = f then p.pmin else 0
          | none => 0
        | none => 0).sum
      (t.feeder f).pledge = (s.feeder f).pledge - bindings ∧ ((s.feeder f).pledge = bindings → (t.feeder f).pledge = 0) ∧
      (t.feeder f).stranded = (s.feeder f).stranded ∧ (t.feeder f).monitor = (s.feeder f).monitor ∧
      ∀ plan p, s.plan = some plan → plan.feeders.find? (·.number == f) = some p →
        t.effective = plan.site.limit ∧
        (t.feeder f).want = match plan.site.mode with
          | .pooled => min p.limit (s.feeder f).stranded
          | .quota => min (min p.limit (s.feeder f).stranded) (plan.site.limit * p.quota / 256)) ∧
    t.notices.mask = s.notices.mask ∧ t.notices.threshold = s.notices.threshold ∧
    t.notices.status = (if s.notices.threshold ≤ t.markedCount then 1 else 0)

/-! ### What every step keeps -/

/-- R22, R23, R113, R142, R146, R154, R158, R159, R162, R167, R174, R180, R182, R98: every step from a state whose bays, units, feeders,
lanes, deadline list, port and ratio counter are lawful leaves them lawful; the port's part says that it holds a reply exactly in REPLY,
and a request exactly in BUSY. -/
def Obligations.EveryStepKeepsTheStateLawful : Prop :=
  ∀ s t : State, s.Lawful → step s = .next t → t.Lawful

/-- R50, R180, R188, R189: every step from a state whose free-slot list holds exactly the FREE slots, whose NOTICE line follows status
and mask, whose CHANGES flag follows the marked count, and whose port holds only a request that has passed check 8, leaves it so. -/
def Obligations.EveryStepKeepsTheBooksLawful : Prop :=
  ∀ s t : State, s.BooksLawful → step s = .next t → t.BooksLawful

/-- R109, R191, R51, R135, R192, R1: no command but HARDWARE_RESET turns the clock, a sequence counter or (SNAPSHOT COUNTERS apart) a
statistics counter back; the active plan changes only by a LOAD PLAN that closes its sequence, the bank only by SNAPSHOT COUNTERS;
and no event on a lane touches the port, the staged plan, the clock or the curtailment. -/
def Obligations.NothingRunsBackward : Prop :=
  ∀ (c : Instr) (s t : State), exec c s = .next t → c ≠ .hardwareReset →
    (s.clock ≤ 0xFFFFFFFF → s.clock ≤ t.clock ∧ t.clock ≤ 0xFFFFFFFF) ∧
    (s.bookingSeq ≤ 0xFFFFFFFFFFFF → s.bookingSeq ≤ t.bookingSeq ∧ t.bookingSeq ≤ 0xFFFFFFFFFFFF) ∧
    (s.sessionSeq ≤ 0xFFFFFFFF → s.sessionSeq ≤ t.sessionSeq ∧ t.sessionSeq ≤ 0xFFFFFFFF) ∧
    ((∀ v, c ≠ .snapshotCounters v) →
      t.snapshot = s.snapshot ∧ ∀ k, s.counter k ≤ 0xFFFFFFFF → s.counter k ≤ t.counter k ∧ t.counter k ≤ 0xFFFFFFFF) ∧
    (closesSequence c = false → t.plan = s.plan) ∧
    (isLaneEvent c = true →
      t.port = s.port ∧ t.staged = s.staged ∧ t.clock = s.clock ∧ t.curtailment = s.curtailment)
end

