-- ==== Sys2Proof/Laws/State.lean ====
section
/-! SUPPORT. The small lemmas of State: one per field per update, and the reads of one record after a change of one record. -/

-- One proof after another: side by side, the package as one text takes a thread and its stack for each.
set_option Elab.async false

namespace Sys2Proof.Machine

variable (s : State)

/-! ### modBay -/

@[simp] theorem State.port_modBay (b : BayNo) (f : Bay → Bay) : (s.modBay b f).port = s.port := rfl
@[simp] theorem State.plan_modBay (b : BayNo) (f : Bay → Bay) : (s.modBay b f).plan = s.plan := rfl
@[simp] theorem State.staged_modBay (b : BayNo) (f : Bay → Bay) : (s.modBay b f).staged = s.staged := rfl
@[simp] theorem State.slots_modBay (b : BayNo) (f : Bay → Bay) : (s.modBay b f).slots = s.slots := rfl
@[simp] theorem State.freeSlots_modBay (b : BayNo) (f : Bay → Bay) : (s.modBay b f).freeSlots = s.freeSlots := rfl
@[simp] theorem State.bookingSeq_modBay (b : BayNo) (f : Bay → Bay) : (s.modBay b f).bookingSeq = s.bookingSeq := rfl
@[simp] theorem State.creations_modBay (b : BayNo) (f : Bay → Bay) : (s.modBay b f).creations = s.creations := rfl
@[simp] theorem State.highList_modBay (b : BayNo) (f : Bay → Bay) : (s.modBay b f).highList = s.highList := rfl
@[simp] theorem State.normalList_modBay (b : BayNo) (f : Bay → Bay) : (s.modBay b f).normalList = s.normalList := rfl
@[simp] theorem State.ratioCount_modBay (b : BayNo) (f : Bay → Bay) : (s.modBay b f).ratioCount = s.ratioCount := rfl
@[simp] theorem State.clock_modBay (b : BayNo) (f : Bay → Bay) : (s.modBay b f).clock = s.clock := rfl
@[simp] theorem State.deadlines_modBay (b : BayNo) (f : Bay → Bay) : (s.modBay b f).deadlines = s.deadlines := rfl
@[simp] theorem State.feeders_modBay (b : BayNo) (f : Bay → Bay) : (s.modBay b f).feeders = s.feeders := rfl
@[simp] theorem State.effective_modBay (b : BayNo) (f : Bay → Bay) : (s.modBay b f).effective = s.effective := rfl
@[simp] theorem State.grants_modBay (b : BayNo) (f : Bay → Bay) : (s.modBay b f).grants = s.grants := rfl
@[simp] theorem State.sessionSeq_modBay (b : BayNo) (f : Bay → Bay) : (s.modBay b f).sessionSeq = s.sessionSeq := rfl
@[simp] theorem State.starts_modBay (b : BayNo) (f : Bay → Bay) : (s.modBay b f).starts = s.starts := rfl
@[simp] theorem State.curtailment_modBay (b : BayNo) (f : Bay → Bay) : (s.modBay b f).curtailment = s.curtailment := rfl
@[simp] theorem State.lanes_modBay (b : BayNo) (f : Bay → Bay) : (s.modBay b f).lanes = s.lanes := rfl
@[simp] theorem State.units_modBay (b : BayNo) (f : Bay → Bay) : (s.modBay b f).units = s.units := rfl
@[simp] theorem State.notices_modBay (b : BayNo) (f : Bay → Bay) : (s.modBay b f).notices = s.notices := rfl
@[simp] theorem State.counters_modBay (b : BayNo) (f : Bay → Bay) : (s.modBay b f).counters = s.counters := rfl
@[simp] theorem State.snapshot_modBay (b : BayNo) (f : Bay → Bay) : (s.modBay b f).snapshot = s.snapshot := rfl
@[simp] theorem State.pending_modBay (b : BayNo) (f : Bay → Bay) : (s.modBay b f).pending = s.pending := rfl
@[simp] theorem State.grant_modBay (b : BayNo) (f : Bay → Bay) (x : BayNo) : (s.modBay b f).grant x = s.grant x := rfl
@[simp] theorem State.unit_modBay (b : BayNo) (f : Bay → Bay) (x : BayNo) : (s.modBay b f).unit x = s.unit x := rfl
@[simp] theorem State.slot_modBay (b : BayNo) (f : Bay → Bay) (x : SlotNo) : (s.modBay b f).slot x = s.slot x := rfl
@[simp] theorem State.record_modBay (b : BayNo) (f : Bay → Bay) (x : SlotNo) : (s.modBay b f).record x = s.record x := rfl
@[simp] theorem State.feeder_modBay (b : BayNo) (f : Bay → Bay) (x : FeederNo) : (s.modBay b f).feeder x = s.feeder x := rfl
@[simp] theorem State.lane_modBay (b : BayNo) (f : Bay → Bay) (x : LaneNo) : (s.modBay b f).lane x = s.lane x := rfl

/-! ### modGrant -/

@[simp] theorem State.port_modGrant (b : BayNo) (f : Grants → Grants) : (s.modGrant b f).port = s.port := rfl
@[simp] theorem State.plan_modGrant (b : BayNo) (f : Grants → Grants) : (s.modGrant b f).plan = s.plan := rfl
@[simp] theorem State.staged_modGrant (b : BayNo) (f : Grants → Grants) : (s.modGrant b f).staged = s.staged := rfl
@[simp] theorem State.bays_modGrant (b : BayNo) (f : Grants → Grants) : (s.modGrant b f).bays = s.bays := rfl
@[simp] theorem State.slots_modGrant (b : BayNo) (f : Grants → Grants) : (s.modGrant b f).slots = s.slots := rfl
@[simp] theorem State.freeSlots_modGrant (b : BayNo) (f : Grants → Grants) : (s.modGrant b f).freeSlots = s.freeSlots := rfl
@[simp] theorem State.bookingSeq_modGrant (b : BayNo) (f : Grants → Grants) : (s.modGrant b f).bookingSeq = s.bookingSeq := rfl
@[simp] theorem State.creations_modGrant (b : BayNo) (f : Grants → Grants) : (s.modGrant b f).creations = s.creations := rfl
@[simp] theorem State.highList_modGrant (b : BayNo) (f : Grants → Grants) : (s.modGrant b f).highList = s.highList := rfl
@[simp] theorem State.normalList_modGrant (b : BayNo) (f : Grants → Grants) : (s.modGrant b f).normalList = s.normalList := rfl
@[simp] theorem State.ratioCount_modGrant (b : BayNo) (f : Grants → Grants) : (s.modGrant b f).ratioCount = s.ratioCount := rfl
@[simp] theorem State.clock_modGrant (b : BayNo) (f : Grants → Grants) : (s.modGrant b f).clock = s.clock := rfl
@[simp] theorem State.deadlines_modGrant (b : BayNo) (f : Grants → Grants) : (s.modGrant b f).deadlines = s.deadlines := rfl
@[simp] theorem State.feeders_modGrant (b : BayNo) (f : Grants → Grants) : (s.modGrant b f).feeders = s.feeders := rfl
@[simp] theorem State.effective_modGrant (b : BayNo) (f : Grants → Grants) : (s.modGrant b f).effective = s.effective := rfl
@[simp] theorem State.sessionSeq_modGrant (b : BayNo) (f : Grants → Grants) : (s.modGrant b f).sessionSeq = s.sessionSeq := rfl
@[simp] theorem State.starts_modGrant (b : BayNo) (f : Grants → Grants) : (s.modGrant b f).starts = s.starts := rfl
@[simp] theorem State.curtailment_modGrant (b : BayNo) (f : Grants → Grants) : (s.modGrant b f).curtailment = s.curtailment := rfl
@[simp] theorem State.lanes_modGrant (b : BayNo) (f : Grants → Grants) : (s.modGrant b f).lanes = s.lanes := rfl
@[simp] theorem State.units_modGrant (b : BayNo) (f : Grants → Grants) : (s.modGrant b f).units = s.units := rfl
@[simp] theorem State.notices_modGrant (b : BayNo) (f : Grants → Grants) : (s.modGrant b f).notices = s.notices := rfl
@[simp] theorem State.counters_modGrant (b : BayNo) (f : Grants → Grants) : (s.modGrant b f).counters = s.counters := rfl
@[simp] theorem State.snapshot_modGrant (b : BayNo) (f : Grants → Grants) : (s.modGrant b f).snapshot = s.snapshot := rfl
@[simp] theorem State.pending_modGrant (b : BayNo) (f : Grants → Grants) : (s.modGrant b f).pending = s.pending := rfl
@[simp] theorem State.bay_modGrant (b : BayNo) (f : Grants → Grants) (x : BayNo) : (s.modGrant b f).bay x = s.bay x := rfl
@[simp] theorem State.unit_modGrant (b : BayNo) (f : Grants → Grants) (x : BayNo) : (s.modGrant b f).unit x = s.unit x := rfl
@[simp] theorem State.slot_modGrant (b : BayNo) (f : Grants → Grants) (x : SlotNo) : (s.modGrant b f).slot x = s.slot x := rfl
@[simp] theorem State.record_modGrant (b : BayNo) (f : Grants → Grants) (x : SlotNo) : (s.modGrant b f).record x = s.record x := rfl
@[simp] theorem State.feeder_modGrant (b : BayNo) (f : Grants → Grants) (x : FeederNo) : (s.modGrant b f).feeder x = s.feeder x := rfl
@[simp] theorem State.lane_modGrant (b : BayNo) (f : Grants → Grants) (x : LaneNo) : (s.modGrant b f).lane x = s.lane x := rfl

/-! ### modUnit -/

@[simp] theorem State.port_modUnit (b : BayNo) (f : BayUnit → BayUnit) : (s.modUnit b f).port = s.port := rfl
@[simp] theorem State.plan_modUnit (b : BayNo) (f : BayUnit → BayUnit) : (s.modUnit b f).plan = s.plan := rfl
@[simp] theorem State.staged_modUnit (b : BayNo) (f : BayUnit → BayUnit) : (s.modUnit b f).staged = s.staged := rfl
@[simp] theorem State.bays_modUnit (b : BayNo) (f : BayUnit → BayUnit) : (s.modUnit b f).bays = s.bays := rfl
@[simp] theorem State.slots_modUnit (b : BayNo) (f : BayUnit → BayUnit) : (s.modUnit b f).slots = s.slots := rfl
@[simp] theorem State.freeSlots_modUnit (b : BayNo) (f : BayUnit → BayUnit) : (s.modUnit b f).freeSlots = s.freeSlots := rfl
@[simp] theorem State.bookingSeq_modUnit (b : BayNo) (f : BayUnit → BayUnit) : (s.modUnit b f).bookingSeq = s.bookingSeq := rfl
@[simp] theorem State.creations_modUnit (b : BayNo) (f : BayUnit → BayUnit) : (s.modUnit b f).creations = s.creations := rfl
@[simp] theorem State.highList_modUnit (b : BayNo) (f : BayUnit → BayUnit) : (s.modUnit b f).highList = s.highList := rfl
@[simp] theorem State.normalList_modUnit (b : BayNo) (f : BayUnit → BayUnit) : (s.modUnit b f).normalList = s.normalList := rfl
@[simp] theorem State.ratioCount_modUnit (b : BayNo) (f : BayUnit → BayUnit) : (s.modUnit b f).ratioCount = s.ratioCount := rfl
@[simp] theorem State.clock_modUnit (b : BayNo) (f : BayUnit → BayUnit) : (s.modUnit b f).clock = s.clock := rfl
@[simp] theorem State.deadlines_modUnit (b : BayNo) (f : BayUnit → BayUnit) : (s.modUnit b f).deadlines = s.deadlines := rfl
@[simp] theorem State.feeders_modUnit (b : BayNo) (f : BayUnit → BayUnit) : (s.modUnit b f).feeders = s.feeders := rfl
@[simp] theorem State.effective_modUnit (b : BayNo) (f : BayUnit → BayUnit) : (s.modUnit b f).effective = s.effective := rfl
@[simp] theorem State.grants_modUnit (b : BayNo) (f : BayUnit → BayUnit) : (s.modUnit b f).grants = s.grants := rfl
@[simp] theorem State.sessionSeq_modUnit (b : BayNo) (f : BayUnit → BayUnit) : (s.modUnit b f).sessionSeq = s.sessionSeq := rfl
@[simp] theorem State.starts_modUnit (b : BayNo) (f : BayUnit → BayUnit) : (s.modUnit b f).starts = s.starts := rfl
@[simp] theorem State.curtailment_modUnit (b : BayNo) (f : BayUnit → BayUnit) : (s.modUnit b f).curtailment = s.curtailment := rfl
@[simp] theorem State.lanes_modUnit (b : BayNo) (f : BayUnit → BayUnit) : (s.modUnit b f).lanes = s.lanes := rfl
@[simp] theorem State.notices_modUnit (b : BayNo) (f : BayUnit → BayUnit) : (s.modUnit b f).notices = s.notices := rfl
@[simp] theorem State.counters_modUnit (b : BayNo) (f : BayUnit → BayUnit) : (s.modUnit b f).counters = s.counters := rfl
@[simp] theorem State.snapshot_modUnit (b : BayNo) (f : BayUnit → BayUnit) : (s.modUnit b f).snapshot = s.snapshot := rfl
@[simp] theorem State.pending_modUnit (b : BayNo) (f : BayUnit → BayUnit) : (s.modUnit b f).pending = s.pending := rfl
@[simp] theorem State.bay_modUnit (b : BayNo) (f : BayUnit → BayUnit) (x : BayNo) : (s.modUnit b f).bay x = s.bay x := rfl
@[simp] theorem State.grant_modUnit (b : BayNo) (f : BayUnit → BayUnit) (x : BayNo) : (s.modUnit b f).grant x = s.grant x := rfl
@[simp] theorem State.slot_modUnit (b : BayNo) (f : BayUnit → BayUnit) (x : SlotNo) : (s.modUnit b f).slot x = s.slot x := rfl
@[simp] theorem State.record_modUnit (b : BayNo) (f : BayUnit → BayUnit) (x : SlotNo) : (s.modUnit b f).record x = s.record x := rfl
@[simp] theorem State.feeder_modUnit (b : BayNo) (f : BayUnit → BayUnit) (x : FeederNo) : (s.modUnit b f).feeder x = s.feeder x := rfl
@[simp] theorem State.lane_modUnit (b : BayNo) (f : BayUnit → BayUnit) (x : LaneNo) : (s.modUnit b f).lane x = s.lane x := rfl

/-! ### modSlot -/

@[simp] theorem State.port_modSlot (i : SlotNo) (f : Slot → Slot) : (s.modSlot i f).port = s.port := rfl
@[simp] theorem State.plan_modSlot (i : SlotNo) (f : Slot → Slot) : (s.modSlot i f).plan = s.plan := rfl
@[simp] theorem State.staged_modSlot (i : SlotNo) (f : Slot → Slot) : (s.modSlot i f).staged = s.staged := rfl
@[simp] theorem State.bays_modSlot (i : SlotNo) (f : Slot → Slot) : (s.modSlot i f).bays = s.bays := rfl
@[simp] theorem State.freeSlots_modSlot (i : SlotNo) (f : Slot → Slot) : (s.modSlot i f).freeSlots = s.freeSlots := rfl
@[simp] theorem State.bookingSeq_modSlot (i : SlotNo) (f : Slot → Slot) : (s.modSlot i f).bookingSeq = s.bookingSeq := rfl
@[simp] theorem State.creations_modSlot (i : SlotNo) (f : Slot → Slot) : (s.modSlot i f).creations = s.creations := rfl
@[simp] theorem State.highList_modSlot (i : SlotNo) (f : Slot → Slot) : (s.modSlot i f).highList = s.highList := rfl
@[simp] theorem State.normalList_modSlot (i : SlotNo) (f : Slot → Slot) : (s.modSlot i f).normalList = s.normalList := rfl
@[simp] theorem State.ratioCount_modSlot (i : SlotNo) (f : Slot → Slot) : (s.modSlot i f).ratioCount = s.ratioCount := rfl
@[simp] theorem State.clock_modSlot (i : SlotNo) (f : Slot → Slot) : (s.modSlot i f).clock = s.clock := rfl
@[simp] theorem State.deadlines_modSlot (i : SlotNo) (f : Slot → Slot) : (s.modSlot i f).deadlines = s.deadlines := rfl
@[simp] theorem State.feeders_modSlot (i : SlotNo) (f : Slot → Slot) : (s.modSlot i f).feeders = s.feeders := rfl
@[simp] theorem State.effective_modSlot (i : SlotNo) (f : Slot → Slot) : (s.modSlot i f).effective = s.effective := rfl
@[simp] theorem State.grants_modSlot (i : SlotNo) (f : Slot → Slot) : (s.modSlot i f).grants = s.grants := rfl
@[simp] theorem State.sessionSeq_modSlot (i : SlotNo) (f : Slot → Slot) : (s.modSlot i f).sessionSeq = s.sessionSeq := rfl
@[simp] theorem State.starts_modSlot (i : SlotNo) (f : Slot → Slot) : (s.modSlot i f).starts = s.starts := rfl
@[simp] theorem State.curtailment_modSlot (i : SlotNo) (f : Slot → Slot) : (s.modSlot i f).curtailment = s.curtailment := rfl
@[simp] theorem State.lanes_modSlot (i : SlotNo) (f : Slot → Slot) : (s.modSlot i f).lanes = s.lanes := rfl
@[simp] theorem State.units_modSlot (i : SlotNo) (f : Slot → Slot) : (s.modSlot i f).units = s.units := rfl
@[simp] theorem State.notices_modSlot (i : SlotNo) (f : Slot → Slot) : (s.modSlot i f).notices = s.notices := rfl
@[simp] theorem State.counters_modSlot (i : SlotNo) (f : Slot → Slot) : (s.modSlot i f).counters = s.counters := rfl
@[simp] theorem State.snapshot_modSlot (i : SlotNo) (f : Slot → Slot) : (s.modSlot i f).snapshot = s.snapshot := rfl
@[simp] theorem State.pending_modSlot (i : SlotNo) (f : Slot → Slot) : (s.modSlot i f).pending = s.pending := rfl
@[simp] theorem State.bay_modSlot (i : SlotNo) (f : Slot → Slot) (x : BayNo) : (s.modSlot i f).bay x = s.bay x := rfl
@[simp] theorem State.grant_modSlot (i : SlotNo) (f : Slot → Slot) (x : BayNo) : (s.modSlot i f).grant x = s.grant x := rfl
@[simp] theorem State.unit_modSlot (i : SlotNo) (f : Slot → Slot) (x : BayNo) : (s.modSlot i f).unit x = s.unit x := rfl
@[simp] theorem State.feeder_modSlot (i : SlotNo) (f : Slot → Slot) (x : FeederNo) : (s.modSlot i f).feeder x = s.feeder x := rfl
@[simp] theorem State.lane_modSlot (i : SlotNo) (f : Slot → Slot) (x : LaneNo) : (s.modSlot i f).lane x = s.lane x := rfl

/-! ### modRecord -/

@[simp] theorem State.port_modRecord (i : SlotNo) (f : Reservation → Reservation) : (s.modRecord i f).port = s.port := rfl
@[simp] theorem State.plan_modRecord (i : SlotNo) (f : Reservation → Reservation) : (s.modRecord i f).plan = s.plan := rfl
@[simp] theorem State.staged_modRecord (i : SlotNo) (f : Reservation → Reservation) : (s.modRecord i f).staged = s.staged := rfl
@[simp] theorem State.bays_modRecord (i : SlotNo) (f : Reservation → Reservation) : (s.modRecord i f).bays = s.bays := rfl
@[simp] theorem State.freeSlots_modRecord (i : SlotNo) (f : Reservation → Reservation) : (s.modRecord i f).freeSlots = s.freeSlots := rfl
@[simp] theorem State.bookingSeq_modRecord (i : SlotNo) (f : Reservation → Reservation) : (s.modRecord i f).bookingSeq = s.bookingSeq := rfl
@[simp] theorem State.creations_modRecord (i : SlotNo) (f : Reservation → Reservation) : (s.modRecord i f).creations = s.creations := rfl
@[simp] theorem State.highList_modRecord (i : SlotNo) (f : Reservation → Reservation) : (s.modRecord i f).highList = s.highList := rfl
@[simp] theorem State.normalList_modRecord (i : SlotNo) (f : Reservation → Reservation) : (s.modRecord i f).normalList = s.normalList := rfl
@[simp] theorem State.ratioCount_modRecord (i : SlotNo) (f : Reservation → Reservation) : (s.modRecord i f).ratioCount = s.ratioCount := rfl
@[simp] theorem State.clock_modRecord (i : SlotNo) (f : Reservation → Reservation) : (s.modRecord i f).clock = s.clock := rfl
@[simp] theorem State.deadlines_modRecord (i : SlotNo) (f : Reservation → Reservation) : (s.modRecord i f).deadlines = s.deadlines := rfl
@[simp] theorem State.feeders_modRecord (i : SlotNo) (f : Reservation → Reservation) : (s.modRecord i f).feeders = s.feeders := rfl
@[simp] theorem State.effective_modRecord (i : SlotNo) (f : Reservation → Reservation) : (s.modRecord i f).effective = s.effective := rfl
@[simp] theorem State.grants_modRecord (i : SlotNo) (f : Reservation → Reservation) : (s.modRecord i f).grants = s.grants := rfl
@[simp] theorem State.sessionSeq_modRecord (i : SlotNo) (f : Reservation → Reservation) : (s.modRecord i f).sessionSeq = s.sessionSeq := rfl
@[simp] theorem State.starts_modRecord (i : SlotNo) (f : Reservation → Reservation) : (s.modRecord i f).starts = s.starts := rfl
@[simp] theorem State.curtailment_modRecord (i : SlotNo) (f : Reservation → Reservation) : (s.modRecord i f).curtailment = s.curtailment := rfl
@[simp] theorem State.lanes_modRecord (i : SlotNo) (f : Reservation → Reservation) : (s.modRecord i f).lanes = s.lanes := rfl
@[simp] theorem State.units_modRecord (i : SlotNo) (f : Reservation → Reservation) : (s.modRecord i f).units = s.units := rfl
@[simp] theorem State.notices_modRecord (i : SlotNo) (f : Reservation → Reservation) : (s.modRecord i f).notices = s.notices := rfl
@[simp] theorem State.counters_modRecord (i : SlotNo) (f : Reservation → Reservation) : (s.modRecord i f).counters = s.counters := rfl
@[simp] theorem State.snapshot_modRecord (i : SlotNo) (f : Reservation → Reservation) : (s.modRecord i f).snapshot = s.snapshot := rfl
@[simp] theorem State.pending_modRecord (i : SlotNo) (f : Reservation → Reservation) : (s.modRecord i f).pending = s.pending := rfl
@[simp] theorem State.bay_modRecord (i : SlotNo) (f : Reservation → Reservation) (x : BayNo) : (s.modRecord i f).bay x = s.bay x := rfl
@[simp] theorem State.grant_modRecord (i : SlotNo) (f : Reservation → Reservation) (x : BayNo) : (s.modRecord i f).grant x = s.grant x := rfl
@[simp] theorem State.unit_modRecord (i : SlotNo) (f : Reservation → Reservation) (x : BayNo) : (s.modRecord i f).unit x = s.unit x := rfl
@[simp] theorem State.feeder_modRecord (i : SlotNo) (f : Reservation → Reservation) (x : FeederNo) : (s.modRecord i f).feeder x = s.feeder x := rfl
@[simp] theorem State.lane_modRecord (i : SlotNo) (f : Reservation → Reservation) (x : LaneNo) : (s.modRecord i f).lane x = s.lane x := rfl

/-! ### modFeeder -/

@[simp] theorem State.port_modFeeder (f : FeederNo) (g : Feeder → Feeder) : (s.modFeeder f g).port = s.port := rfl
@[simp] theorem State.plan_modFeeder (f : FeederNo) (g : Feeder → Feeder) : (s.modFeeder f g).plan = s.plan := rfl
@[simp] theorem State.staged_modFeeder (f : FeederNo) (g : Feeder → Feeder) : (s.modFeeder f g).staged = s.staged := rfl
@[simp] theorem State.bays_modFeeder (f : FeederNo) (g : Feeder → Feeder) : (s.modFeeder f g).bays = s.bays := rfl
@[simp] theorem State.slots_modFeeder (f : FeederNo) (g : Feeder → Feeder) : (s.modFeeder f g).slots = s.slots := rfl
@[simp] theorem State.freeSlots_modFeeder (f : FeederNo) (g : Feeder → Feeder) : (s.modFeeder f g).freeSlots = s.freeSlots := rfl
@[simp] theorem State.bookingSeq_modFeeder (f : FeederNo) (g : Feeder → Feeder) : (s.modFeeder f g).bookingSeq = s.bookingSeq := rfl
@[simp] theorem State.creations_modFeeder (f : FeederNo) (g : Feeder → Feeder) : (s.modFeeder f g).creations = s.creations := rfl
@[simp] theorem State.highList_modFeeder (f : FeederNo) (g : Feeder → Feeder) : (s.modFeeder f g).highList = s.highList := rfl
@[simp] theorem State.normalList_modFeeder (f : FeederNo) (g : Feeder → Feeder) : (s.modFeeder f g).normalList = s.normalList := rfl
@[simp] theorem State.ratioCount_modFeeder (f : FeederNo) (g : Feeder → Feeder) : (s.modFeeder f g).ratioCount = s.ratioCount := rfl
@[simp] theorem State.clock_modFeeder (f : FeederNo) (g : Feeder → Feeder) : (s.modFeeder f g).clock = s.clock := rfl
@[simp] theorem State.deadlines_modFeeder (f : FeederNo) (g : Feeder → Feeder) : (s.modFeeder f g).deadlines = s.deadlines := rfl
@[simp] theorem State.effective_modFeeder (f : FeederNo) (g : Feeder → Feeder) : (s.modFeeder f g).effective = s.effective := rfl
@[simp] theorem State.grants_modFeeder (f : FeederNo) (g : Feeder → Feeder) : (s.modFeeder f g).grants = s.grants := rfl
@[simp] theorem State.sessionSeq_modFeeder (f : FeederNo) (g : Feeder → Feeder) : (s.modFeeder f g).sessionSeq = s.sessionSeq := rfl
@[simp] theorem State.starts_modFeeder (f : FeederNo) (g : Feeder → Feeder) : (s.modFeeder f g).starts = s.starts := rfl
@[simp] theorem State.curtailment_modFeeder (f : FeederNo) (g : Feeder → Feeder) : (s.modFeeder f g).curtailment = s.curtailment := rfl
@[simp] theorem State.lanes_modFeeder (f : FeederNo) (g : Feeder → Feeder) : (s.modFeeder f g).lanes = s.lanes := rfl
@[simp] theorem State.units_modFeeder (f : FeederNo) (g : Feeder → Feeder) : (s.modFeeder f g).units = s.units := rfl
@[simp] theorem State.notices_modFeeder (f : FeederNo) (g : Feeder → Feeder) : (s.modFeeder f g).notices = s.notices := rfl
@[simp] theorem State.counters_modFeeder (f : FeederNo) (g : Feeder → Feeder) : (s.modFeeder f g).counters = s.counters := rfl
@[simp] theorem State.snapshot_modFeeder (f : FeederNo) (g : Feeder → Feeder) : (s.modFeeder f g).snapshot = s.snapshot := rfl
@[simp] theorem State.pending_modFeeder (f : FeederNo) (g : Feeder → Feeder) : (s.modFeeder f g).pending = s.pending := rfl
@[simp] theorem State.bay_modFeeder (f : FeederNo) (g : Feeder → Feeder) (x : BayNo) : (s.modFeeder f g).bay x = s.bay x := rfl
@[simp] theorem State.grant_modFeeder (f : FeederNo) (g : Feeder → Feeder) (x : BayNo) : (s.modFeeder f g).grant x = s.grant x := rfl
@[simp] theorem State.unit_modFeeder (f : FeederNo) (g : Feeder → Feeder) (x : BayNo) : (s.modFeeder f g).unit x = s.unit x := rfl
@[simp] theorem State.slot_modFeeder (f : FeederNo) (g : Feeder → Feeder) (x : SlotNo) : (s.modFeeder f g).slot x = s.slot x := rfl
@[simp] theorem State.record_modFeeder (f : FeederNo) (g : Feeder → Feeder) (x : SlotNo) : (s.modFeeder f g).record x = s.record x := rfl
@[simp] theorem State.lane_modFeeder (f : FeederNo) (g : Feeder → Feeder) (x : LaneNo) : (s.modFeeder f g).lane x = s.lane x := rfl

/-! ### modLane -/

@[simp] theorem State.port_modLane (l : LaneNo) (f : Lane → Lane) : (s.modLane l f).port = s.port := rfl
@[simp] theorem State.plan_modLane (l : LaneNo) (f : Lane → Lane) : (s.modLane l f).plan = s.plan := rfl
@[simp] theorem State.staged_modLane (l : LaneNo) (f : Lane → Lane) : (s.modLane l f).staged = s.staged := rfl
@[simp] theorem State.bays_modLane (l : LaneNo) (f : Lane → Lane) : (s.modLane l f).bays = s.bays := rfl
@[simp] theorem State.slots_modLane (l : LaneNo) (f : Lane → Lane) : (s.modLane l f).slots = s.slots := rfl
@[simp] theorem State.freeSlots_modLane (l : LaneNo) (f : Lane → Lane) : (s.modLane l f).freeSlots = s.freeSlots := rfl
@[simp] theorem State.bookingSeq_modLane (l : LaneNo) (f : Lane → Lane) : (s.modLane l f).bookingSeq = s.bookingSeq := rfl
@[simp] theorem State.creations_modLane (l : LaneNo) (f : Lane → Lane) : (s.modLane l f).creations = s.creations := rfl
@[simp] theorem State.highList_modLane (l : LaneNo) (f : Lane → Lane) : (s.modLane l f).highList = s.highList := rfl
@[simp] theorem State.normalList_modLane (l : LaneNo) (f : Lane → Lane) : (s.modLane l f).normalList = s.normalList := rfl
@[simp] theorem State.ratioCount_modLane (l : LaneNo) (f : Lane → Lane) : (s.modLane l f).ratioCount = s.ratioCount := rfl
@[simp] theorem State.clock_modLane (l : LaneNo) (f : Lane → Lane) : (s.modLane l f).clock = s.clock := rfl
@[simp] theorem State.deadlines_modLane (l : LaneNo) (f : Lane → Lane) : (s.modLane l f).deadlines = s.deadlines := rfl
@[simp] theorem State.feeders_modLane (l : LaneNo) (f : Lane → Lane) : (s.modLane l f).feeders = s.feeders := rfl
@[simp] theorem State.effective_modLane (l : LaneNo) (f : Lane → Lane) : (s.modLane l f).effective = s.effective := rfl
@[simp] theorem State.grants_modLane (l : LaneNo) (f : Lane → Lane) : (s.modLane l f).grants = s.grants := rfl
@[simp] theorem State.sessionSeq_modLane (l : LaneNo) (f : Lane → Lane) : (s.modLane l f).sessionSeq = s.sessionSeq := rfl
@[simp] theorem State.starts_modLane (l : LaneNo) (f : Lane → Lane) : (s.modLane l f).starts = s.starts := rfl
@[simp] theorem State.curtailment_modLane (l : LaneNo) (f : Lane → Lane) : (s.modLane l f).curtailment = s.curtailment := rfl
@[simp] theorem State.units_modLane (l : LaneNo) (f : Lane → Lane) : (s.modLane l f).units = s.units := rfl
@[simp] theorem State.notices_modLane (l : LaneNo) (f : Lane → Lane) : (s.modLane l f).notices = s.notices := rfl
@[simp] theorem State.counters_modLane (l : LaneNo) (f : Lane → Lane) : (s.modLane l f).counters = s.counters := rfl
@[simp] theorem State.snapshot_modLane (l : LaneNo) (f : Lane → Lane) : (s.modLane l f).snapshot = s.snapshot := rfl
@[simp] theorem State.pending_modLane (l : LaneNo) (f : Lane → Lane) : (s.modLane l f).pending = s.pending := rfl
@[simp] theorem State.bay_modLane (l : LaneNo) (f : Lane → Lane) (x : BayNo) : (s.modLane l f).bay x = s.bay x := rfl
@[simp] theorem State.grant_modLane (l : LaneNo) (f : Lane → Lane) (x : BayNo) : (s.modLane l f).grant x = s.grant x := rfl
@[simp] theorem State.unit_modLane (l : LaneNo) (f : Lane → Lane) (x : BayNo) : (s.modLane l f).unit x = s.unit x := rfl
@[simp] theorem State.slot_modLane (l : LaneNo) (f : Lane → Lane) (x : SlotNo) : (s.modLane l f).slot x = s.slot x := rfl
@[simp] theorem State.record_modLane (l : LaneNo) (f : Lane → Lane) (x : SlotNo) : (s.modLane l f).record x = s.record x := rfl
@[simp] theorem State.feeder_modLane (l : LaneNo) (f : Lane → Lane) (x : FeederNo) : (s.modLane l f).feeder x = s.feeder x := rfl

/-! ### enter -/

@[simp] theorem State.port_enter (b : BayNo) (st : BayState) : (s.enter b st).port = s.port := rfl
@[simp] theorem State.plan_enter (b : BayNo) (st : BayState) : (s.enter b st).plan = s.plan := rfl
@[simp] theorem State.staged_enter (b : BayNo) (st : BayState) : (s.enter b st).staged = s.staged := rfl
@[simp] theorem State.slots_enter (b : BayNo) (st : BayState) : (s.enter b st).slots = s.slots := rfl
@[simp] theorem State.freeSlots_enter (b : BayNo) (st : BayState) : (s.enter b st).freeSlots = s.freeSlots := rfl
@[simp] theorem State.bookingSeq_enter (b : BayNo) (st : BayState) : (s.enter b st).bookingSeq = s.bookingSeq := rfl
@[simp] theorem State.creations_enter (b : BayNo) (st : BayState) : (s.enter b st).creations = s.creations := rfl
@[simp] theorem State.highList_enter (b : BayNo) (st : BayState) : (s.enter b st).highList = s.highList := rfl
@[simp] theorem State.normalList_enter (b : BayNo) (st : BayState) : (s.enter b st).normalList = s.normalList := rfl
@[simp] theorem State.ratioCount_enter (b : BayNo) (st : BayState) : (s.enter b st).ratioCount = s.ratioCount := rfl
@[simp] theorem State.clock_enter (b : BayNo) (st : BayState) : (s.enter b st).clock = s.clock := rfl
@[simp] theorem State.deadlines_enter (b : BayNo) (st : BayState) : (s.enter b st).deadlines = s.deadlines := rfl
@[simp] theorem State.feeders_enter (b : BayNo) (st : BayState) : (s.enter b st).feeders = s.feeders := rfl
@[simp] theorem State.effective_enter (b : BayNo) (st : BayState) : (s.enter b st).effective = s.effective := rfl
@[simp] theorem State.grants_enter (b : BayNo) (st : BayState) : (s.enter b st).grants = s.grants := rfl
@[simp] theorem State.sessionSeq_enter (b : BayNo) (st : BayState) : (s.enter b st).sessionSeq = s.sessionSeq := rfl
@[simp] theorem State.starts_enter (b : BayNo) (st : BayState) : (s.enter b st).starts = s.starts := rfl
@[simp] theorem State.curtailment_enter (b : BayNo) (st : BayState) : (s.enter b st).curtailment = s.curtailment := rfl
@[simp] theorem State.lanes_enter (b : BayNo) (st : BayState) : (s.enter b st).lanes = s.lanes := rfl
@[simp] theorem State.units_enter (b : BayNo) (st : BayState) : (s.enter b st).units = s.units := rfl
@[simp] theorem State.notices_enter (b : BayNo) (st : BayState) : (s.enter b st).notices = s.notices := rfl
@[simp] theorem State.counters_enter (b : BayNo) (st : BayState) : (s.enter b st).counters = s.counters := rfl
@[simp] theorem State.snapshot_enter (b : BayNo) (st : BayState) : (s.enter b st).snapshot = s.snapshot := rfl
@[simp] theorem State.pending_enter (b : BayNo) (st : BayState) : (s.enter b st).pending = s.pending := rfl
@[simp] theorem State.grant_enter (b : BayNo) (st : BayState) (x : BayNo) : (s.enter b st).grant x = s.grant x := rfl
@[simp] theorem State.unit_enter (b : BayNo) (st : BayState) (x : BayNo) : (s.enter b st).unit x = s.unit x := rfl
@[simp] theorem State.slot_enter (b : BayNo) (st : BayState) (x : SlotNo) : (s.enter b st).slot x = s.slot x := rfl
@[simp] theorem State.record_enter (b : BayNo) (st : BayState) (x : SlotNo) : (s.enter b st).record x = s.record x := rfl
@[simp] theorem State.feeder_enter (b : BayNo) (st : BayState) (x : FeederNo) : (s.enter b st).feeder x = s.feeder x := rfl
@[simp] theorem State.lane_enter (b : BayNo) (st : BayState) (x : LaneNo) : (s.enter b st).lane x = s.lane x := rfl

/-! ### takeOut -/

@[simp] theorem State.port_takeOut (b : BayNo) (r : Reason) : (s.takeOut b r).port = s.port := rfl
@[simp] theorem State.plan_takeOut (b : BayNo) (r : Reason) : (s.takeOut b r).plan = s.plan := rfl
@[simp] theorem State.staged_takeOut (b : BayNo) (r : Reason) : (s.takeOut b r).staged = s.staged := rfl
@[simp] theorem State.slots_takeOut (b : BayNo) (r : Reason) : (s.takeOut b r).slots = s.slots := rfl
@[simp] theorem State.freeSlots_takeOut (b : BayNo) (r : Reason) : (s.takeOut b r).freeSlots = s.freeSlots := rfl
@[simp] theorem State.bookingSeq_takeOut (b : BayNo) (r : Reason) : (s.takeOut b r).bookingSeq = s.bookingSeq := rfl
@[simp] theorem State.creations_takeOut (b : BayNo) (r : Reason) : (s.takeOut b r).creations = s.creations := rfl
@[simp] theorem State.highList_takeOut (b : BayNo) (r : Reason) : (s.takeOut b r).highList = s.highList := rfl
@[simp] theorem State.normalList_takeOut (b : BayNo) (r : Reason) : (s.takeOut b r).normalList = s.normalList := rfl
@[simp] theorem State.ratioCount_takeOut (b : BayNo) (r : Reason) : (s.takeOut b r).ratioCount = s.ratioCount := rfl
@[simp] theorem State.clock_takeOut (b : BayNo) (r : Reason) : (s.takeOut b r).clock = s.clock := rfl
@[simp] theorem State.deadlines_takeOut (b : BayNo) (r : Reason) : (s.takeOut b r).deadlines = s.deadlines := rfl
@[simp] theorem State.feeders_takeOut (b : BayNo) (r : Reason) : (s.takeOut b r).feeders = s.feeders := rfl
@[simp] theorem State.effective_takeOut (b : BayNo) (r : Reason) : (s.takeOut b r).effective = s.effective := rfl
@[simp] theorem State.grants_takeOut (b : BayNo) (r : Reason) : (s.takeOut b r).grants = s.grants := rfl
@[simp] theorem State.sessionSeq_takeOut (b : BayNo) (r : Reason) : (s.takeOut b r).sessionSeq = s.sessionSeq := rfl
@[simp] theorem State.starts_takeOut (b : BayNo) (r : Reason) : (s.takeOut b r).starts = s.starts := rfl
@[simp] theorem State.curtailment_takeOut (b : BayNo) (r : Reason) : (s.takeOut b r).curtailment = s.curtailment := rfl
@[simp] theorem State.lanes_takeOut (b : BayNo) (r : Reason) : (s.takeOut b r).lanes = s.lanes := rfl
@[simp] theorem State.units_takeOut (b : BayNo) (r : Reason) : (s.takeOut b r).units = s.units := rfl
@[simp] theorem State.notices_takeOut (b : BayNo) (r : Reason) : (s.takeOut b r).notices = s.notices := rfl
@[simp] theorem State.counters_takeOut (b : BayNo) (r : Reason) : (s.takeOut b r).counters = s.counters := rfl
@[simp] theorem State.snapshot_takeOut (b : BayNo) (r : Reason) : (s.takeOut b r).snapshot = s.snapshot := rfl
@[simp] theorem State.pending_takeOut (b : BayNo) (r : Reason) : (s.takeOut b r).pending = s.pending := rfl
@[simp] theorem State.grant_takeOut (b : BayNo) (r : Reason) (x : BayNo) : (s.takeOut b r).grant x = s.grant x := rfl
@[simp] theorem State.unit_takeOut (b : BayNo) (r : Reason) (x : BayNo) : (s.takeOut b r).unit x = s.unit x := rfl
@[simp] theorem State.slot_takeOut (b : BayNo) (r : Reason) (x : SlotNo) : (s.takeOut b r).slot x = s.slot x := rfl
@[simp] theorem State.record_takeOut (b : BayNo) (r : Reason) (x : SlotNo) : (s.takeOut b r).record x = s.record x := rfl
@[simp] theorem State.feeder_takeOut (b : BayNo) (r : Reason) (x : FeederNo) : (s.takeOut b r).feeder x = s.feeder x := rfl
@[simp] theorem State.lane_takeOut (b : BayNo) (r : Reason) (x : LaneNo) : (s.takeOut b r).lane x = s.lane x := rfl

/-! ### dropDeadline -/

@[simp] theorem State.port_dropDeadline (o : Owner) : (s.dropDeadline o).port = s.port := rfl
@[simp] theorem State.plan_dropDeadline (o : Owner) : (s.dropDeadline o).plan = s.plan := rfl
@[simp] theorem State.staged_dropDeadline (o : Owner) : (s.dropDeadline o).staged = s.staged := rfl
@[simp] theorem State.bays_dropDeadline (o : Owner) : (s.dropDeadline o).bays = s.bays := rfl
@[simp] theorem State.slots_dropDeadline (o : Owner) : (s.dropDeadline o).slots = s.slots := rfl
@[simp] theorem State.freeSlots_dropDeadline (o : Owner) : (s.dropDeadline o).freeSlots = s.freeSlots := rfl
@[simp] theorem State.bookingSeq_dropDeadline (o : Owner) : (s.dropDeadline o).bookingSeq = s.bookingSeq := rfl
@[simp] theorem State.creations_dropDeadline (o : Owner) : (s.dropDeadline o).creations = s.creations := rfl
@[simp] theorem State.highList_dropDeadline (o : Owner) : (s.dropDeadline o).highList = s.highList := rfl
@[simp] theorem State.normalList_dropDeadline (o : Owner) : (s.dropDeadline o).normalList = s.normalList := rfl
@[simp] theorem State.ratioCount_dropDeadline (o : Owner) : (s.dropDeadline o).ratioCount = s.ratioCount := rfl
@[simp] theorem State.clock_dropDeadline (o : Owner) : (s.dropDeadline o).clock = s.clock := rfl
@[simp] theorem State.feeders_dropDeadline (o : Owner) : (s.dropDeadline o).feeders = s.feeders := rfl
@[simp] theorem State.effective_dropDeadline (o : Owner) : (s.dropDeadline o).effective = s.effective := rfl
@[simp] theorem State.grants_dropDeadline (o : Owner) : (s.dropDeadline o).grants = s.grants := rfl
@[simp] theorem State.sessionSeq_dropDeadline (o : Owner) : (s.dropDeadline o).sessionSeq = s.sessionSeq := rfl
@[simp] theorem State.starts_dropDeadline (o : Owner) : (s.dropDeadline o).starts = s.starts := rfl
@[simp] theorem State.curtailment_dropDeadline (o : Owner) : (s.dropDeadline o).curtailment = s.curtailment := rfl
@[simp] theorem State.lanes_dropDeadline (o : Owner) : (s.dropDeadline o).lanes = s.lanes := rfl
@[simp] theorem State.units_dropDeadline (o : Owner) : (s.dropDeadline o).units = s.units := rfl
@[simp] theorem State.notices_dropDeadline (o : Owner) : (s.dropDeadline o).notices = s.notices := rfl
@[simp] theorem State.counters_dropDeadline (o : Owner) : (s.dropDeadline o).counters = s.counters := rfl
@[simp] theorem State.snapshot_dropDeadline (o : Owner) : (s.dropDeadline o).snapshot = s.snapshot := rfl
@[simp] theorem State.pending_dropDeadline (o : Owner) : (s.dropDeadline o).pending = s.pending := rfl
@[simp] theorem State.bay_dropDeadline (o : Owner) (x : BayNo) : (s.dropDeadline o).bay x = s.bay x := rfl
@[simp] theorem State.grant_dropDeadline (o : Owner) (x : BayNo) : (s.dropDeadline o).grant x = s.grant x := rfl
@[simp] theorem State.unit_dropDeadline (o : Owner) (x : BayNo) : (s.dropDeadline o).unit x = s.unit x := rfl
@[simp] theorem State.slot_dropDeadline (o : Owner) (x : SlotNo) : (s.dropDeadline o).slot x = s.slot x := rfl
@[simp] theorem State.record_dropDeadline (o : Owner) (x : SlotNo) : (s.dropDeadline o).record x = s.record x := rfl
@[simp] theorem State.feeder_dropDeadline (o : Owner) (x : FeederNo) : (s.dropDeadline o).feeder x = s.feeder x := rfl
@[simp] theorem State.lane_dropDeadline (o : Owner) (x : LaneNo) : (s.dropDeadline o).lane x = s.lane x := rfl

/-! ### setDeadline -/

@[simp] theorem State.port_setDeadline (k : DeadlineKind) (o : Owner) (due : Nat) : (s.setDeadline k o due).port = s.port := rfl
@[simp] theorem State.plan_setDeadline (k : DeadlineKind) (o : Owner) (due : Nat) : (s.setDeadline k o due).plan = s.plan := rfl
@[simp] theorem State.staged_setDeadline (k : DeadlineKind) (o : Owner) (due : Nat) : (s.setDeadline k o due).staged = s.staged := rfl
@[simp] theorem State.bays_setDeadline (k : DeadlineKind) (o : Owner) (due : Nat) : (s.setDeadline k o due).bays = s.bays := rfl
@[simp] theorem State.slots_setDeadline (k : DeadlineKind) (o : Owner) (due : Nat) : (s.setDeadline k o due).slots = s.slots := rfl
@[simp] theorem State.freeSlots_setDeadline (k : DeadlineKind) (o : Owner) (due : Nat) : (s.setDeadline k o due).freeSlots = s.freeSlots := rfl
@[simp] theorem State.bookingSeq_setDeadline (k : DeadlineKind) (o : Owner) (due : Nat) : (s.setDeadline k o due).bookingSeq = s.bookingSeq := rfl
@[simp] theorem State.creations_setDeadline (k : DeadlineKind) (o : Owner) (due : Nat) : (s.setDeadline k o due).creations = s.creations := rfl
@[simp] theorem State.highList_setDeadline (k : DeadlineKind) (o : Owner) (due : Nat) : (s.setDeadline k o due).highList = s.highList := rfl
@[simp] theorem State.normalList_setDeadline (k : DeadlineKind) (o : Owner) (due : Nat) : (s.setDeadline k o due).normalList = s.normalList := rfl
@[simp] theorem State.ratioCount_setDeadline (k : DeadlineKind) (o : Owner) (due : Nat) : (s.setDeadline k o due).ratioCount = s.ratioCount := rfl
@[simp] theorem State.clock_setDeadline (k : DeadlineKind) (o : Owner) (due : Nat) : (s.setDeadline k o due).clock = s.clock := rfl
@[simp] theorem State.feeders_setDeadline (k : DeadlineKind) (o : Owner) (due : Nat) : (s.setDeadline k o due).feeders = s.feeders := rfl
@[simp] theorem State.effective_setDeadline (k : DeadlineKind) (o : Owner) (due : Nat) : (s.setDeadline k o due).effective = s.effective := rfl
@[simp] theorem State.grants_setDeadline (k : DeadlineKind) (o : Owner) (due : Nat) : (s.setDeadline k o due).grants = s.grants := rfl
@[simp] theorem State.sessionSeq_setDeadline (k : DeadlineKind) (o : Owner) (due : Nat) : (s.setDeadline k o due).sessionSeq = s.sessionSeq := rfl
@[simp] theorem State.starts_setDeadline (k : DeadlineKind) (o : Owner) (due : Nat) : (s.setDeadline k o due).starts = s.starts := rfl
@[simp] theorem State.curtailment_setDeadline (k : DeadlineKind) (o : Owner) (due : Nat) : (s.setDeadline k o due).curtailment = s.curtailment := rfl
@[simp] theorem State.lanes_setDeadline (k : DeadlineKind) (o : Owner) (due : Nat) : (s.setDeadline k o due).lanes = s.lanes := rfl
@[simp] theorem State.units_setDeadline (k : DeadlineKind) (o : Owner) (due : Nat) : (s.setDeadline k o due).units = s.units := rfl
@[simp] theorem State.notices_setDeadline (k : DeadlineKind) (o : Owner) (due : Nat) : (s.setDeadline k o due).notices = s.notices := rfl
@[simp] theorem State.counters_setDeadline (k : DeadlineKind) (o : Owner) (due : Nat) : (s.setDeadline k o due).counters = s.counters := rfl
@[simp] theorem State.snapshot_setDeadline (k : DeadlineKind) (o : Owner) (due : Nat) : (s.setDeadline k o due).snapshot = s.snapshot := rfl
@[simp] theorem State.pending_setDeadline (k : DeadlineKind) (o : Owner) (due : Nat) : (s.setDeadline k o due).pending = s.pending := rfl
@[simp] theorem State.bay_setDeadline (k : DeadlineKind) (o : Owner) (due : Nat) (x : BayNo) : (s.setDeadline k o due).bay x = s.bay x := rfl
@[simp] theorem State.grant_setDeadline (k : DeadlineKind) (o : Owner) (due : Nat) (x : BayNo) : (s.setDeadline k o due).grant x = s.grant x := rfl
@[simp] theorem State.unit_setDeadline (k : DeadlineKind) (o : Owner) (due : Nat) (x : BayNo) : (s.setDeadline k o due).unit x = s.unit x := rfl
@[simp] theorem State.slot_setDeadline (k : DeadlineKind) (o : Owner) (due : Nat) (x : SlotNo) : (s.setDeadline k o due).slot x = s.slot x := rfl
@[simp] theorem State.record_setDeadline (k : DeadlineKind) (o : Owner) (due : Nat) (x : SlotNo) : (s.setDeadline k o due).record x = s.record x := rfl
@[simp] theorem State.feeder_setDeadline (k : DeadlineKind) (o : Owner) (due : Nat) (x : FeederNo) : (s.setDeadline k o due).feeder x = s.feeder x := rfl
@[simp] theorem State.lane_setDeadline (k : DeadlineKind) (o : Owner) (due : Nat) (x : LaneNo) : (s.setDeadline k o due).lane x = s.lane x := rfl

/-! ### startDeadline -/

@[simp] theorem State.port_startDeadline (k : DeadlineKind) (o : Owner) (n : Nat) : (s.startDeadline k o n).port = s.port := rfl
@[simp] theorem State.plan_startDeadline (k : DeadlineKind) (o : Owner) (n : Nat) : (s.startDeadline k o n).plan = s.plan := rfl
@[simp] theorem State.staged_startDeadline (k : DeadlineKind) (o : Owner) (n : Nat) : (s.startDeadline k o n).staged = s.staged := rfl
@[simp] theorem State.bays_startDeadline (k : DeadlineKind) (o : Owner) (n : Nat) : (s.startDeadline k o n).bays = s.bays := rfl
@[simp] theorem State.slots_startDeadline (k : DeadlineKind) (o : Owner) (n : Nat) : (s.startDeadline k o n).slots = s.slots := rfl
@[simp] theorem State.freeSlots_startDeadline (k : DeadlineKind) (o : Owner) (n : Nat) : (s.startDeadline k o n).freeSlots = s.freeSlots := rfl
@[simp] theorem State.bookingSeq_startDeadline (k : DeadlineKind) (o : Owner) (n : Nat) : (s.startDeadline k o n).bookingSeq = s.bookingSeq := rfl
@[simp] theorem State.creations_startDeadline (k : DeadlineKind) (o : Owner) (n : Nat) : (s.startDeadline k o n).creations = s.creations := rfl
@[simp] theorem State.highList_startDeadline (k : DeadlineKind) (o : Owner) (n : Nat) : (s.startDeadline k o n).highList = s.highList := rfl
@[simp] theorem State.normalList_startDeadline (k : DeadlineKind) (o : Owner) (n : Nat) : (s.startDeadline k o n).normalList = s.normalList := rfl
@[simp] theorem State.ratioCount_startDeadline (k : DeadlineKind) (o : Owner) (n : Nat) : (s.startDeadline k o n).ratioCount = s.ratioCount := rfl
@[simp] theorem State.clock_startDeadline (k : DeadlineKind) (o : Owner) (n : Nat) : (s.startDeadline k o n).clock = s.clock := rfl
@[simp] theorem State.feeders_startDeadline (k : DeadlineKind) (o : Owner) (n : Nat) : (s.startDeadline k o n).feeders = s.feeders := rfl
@[simp] theorem State.effective_startDeadline (k : DeadlineKind) (o : Owner) (n : Nat) : (s.startDeadline k o n).effective = s.effective := rfl
@[simp] theorem State.grants_startDeadline (k : DeadlineKind) (o : Owner) (n : Nat) : (s.startDeadline k o n).grants = s.grants := rfl
@[simp] theorem State.sessionSeq_startDeadline (k : DeadlineKind) (o : Owner) (n : Nat) : (s.startDeadline k o n).sessionSeq = s.sessionSeq := rfl
@[simp] theorem State.starts_startDeadline (k : DeadlineKind) (o : Owner) (n : Nat) : (s.startDeadline k o n).starts = s.starts := rfl
@[simp] theorem State.curtailment_startDeadline (k : DeadlineKind) (o : Owner) (n : Nat) : (s.startDeadline k o n).curtailment = s.curtailment := rfl
@[simp] theorem State.lanes_startDeadline (k : DeadlineKind) (o : Owner) (n : Nat) : (s.startDeadline k o n).lanes = s.lanes := rfl
@[simp] theorem State.units_startDeadline (k : DeadlineKind) (o : Owner) (n : Nat) : (s.startDeadline k o n).units = s.units := rfl
@[simp] theorem State.notices_startDeadline (k : DeadlineKind) (o : Owner) (n : Nat) : (s.startDeadline k o n).notices = s.notices := rfl
@[simp] theorem State.counters_startDeadline (k : DeadlineKind) (o : Owner) (n : Nat) : (s.startDeadline k o n).counters = s.counters := rfl
@[simp] theorem State.snapshot_startDeadline (k : DeadlineKind) (o : Owner) (n : Nat) : (s.startDeadline k o n).snapshot = s.snapshot := rfl
@[simp] theorem State.pending_startDeadline (k : DeadlineKind) (o : Owner) (n : Nat) : (s.startDeadline k o n).pending = s.pending := rfl
@[simp] theorem State.bay_startDeadline (k : DeadlineKind) (o : Owner) (n : Nat) (x : BayNo) : (s.startDeadline k o n).bay x = s.bay x := rfl
@[simp] theorem State.grant_startDeadline (k : DeadlineKind) (o : Owner) (n : Nat) (x : BayNo) : (s.startDeadline k o n).grant x = s.grant x := rfl
@[simp] theorem State.unit_startDeadline (k : DeadlineKind) (o : Owner) (n : Nat) (x : BayNo) : (s.startDeadline k o n).unit x = s.unit x := rfl
@[simp] theorem State.slot_startDeadline (k : DeadlineKind) (o : Owner) (n : Nat) (x : SlotNo) : (s.startDeadline k o n).slot x = s.slot x := rfl
@[simp] theorem State.record_startDeadline (k : DeadlineKind) (o : Owner) (n : Nat) (x : SlotNo) : (s.startDeadline k o n).record x = s.record x := rfl
@[simp] theorem State.feeder_startDeadline (k : DeadlineKind) (o : Owner) (n : Nat) (x : FeederNo) : (s.startDeadline k o n).feeder x = s.feeder x := rfl
@[simp] theorem State.lane_startDeadline (k : DeadlineKind) (o : Owner) (n : Nat) (x : LaneNo) : (s.startDeadline k o n).lane x = s.lane x := rfl

/-! ### raise -/

@[simp] theorem State.port_raise (f : Notice) : (s.raise f).port = s.port := rfl
@[simp] theorem State.plan_raise (f : Notice) : (s.raise f).plan = s.plan := rfl
@[simp] theorem State.staged_raise (f : Notice) : (s.raise f).staged = s.staged := rfl
@[simp] theorem State.bays_raise (f : Notice) : (s.raise f).bays = s.bays := rfl
@[simp] theorem State.slots_raise (f : Notice) : (s.raise f).slots = s.slots := rfl
@[simp] theorem State.freeSlots_raise (f : Notice) : (s.raise f).freeSlots = s.freeSlots := rfl
@[simp] theorem State.bookingSeq_raise (f : Notice) : (s.raise f).bookingSeq = s.bookingSeq := rfl
@[simp] theorem State.creations_raise (f : Notice) : (s.raise f).creations = s.creations := rfl
@[simp] theorem State.highList_raise (f : Notice) : (s.raise f).highList = s.highList := rfl
@[simp] theorem State.normalList_raise (f : Notice) : (s.raise f).normalList = s.normalList := rfl
@[simp] theorem State.ratioCount_raise (f : Notice) : (s.raise f).ratioCount = s.ratioCount := rfl
@[simp] theorem State.clock_raise (f : Notice) : (s.raise f).clock = s.clock := rfl
@[simp] theorem State.deadlines_raise (f : Notice) : (s.raise f).deadlines = s.deadlines := rfl
@[simp] theorem State.feeders_raise (f : Notice) : (s.raise f).feeders = s.feeders := rfl
@[simp] theorem State.effective_raise (f : Notice) : (s.raise f).effective = s.effective := rfl
@[simp] theorem State.grants_raise (f : Notice) : (s.raise f).grants = s.grants := rfl
@[simp] theorem State.sessionSeq_raise (f : Notice) : (s.raise f).sessionSeq = s.sessionSeq := rfl
@[simp] theorem State.starts_raise (f : Notice) : (s.raise f).starts = s.starts := rfl
@[simp] theorem State.curtailment_raise (f : Notice) : (s.raise f).curtailment = s.curtailment := rfl
@[simp] theorem State.lanes_raise (f : Notice) : (s.raise f).lanes = s.lanes := rfl
@[simp] theorem State.units_raise (f : Notice) : (s.raise f).units = s.units := rfl
@[simp] theorem State.counters_raise (f : Notice) : (s.raise f).counters = s.counters := rfl
@[simp] theorem State.snapshot_raise (f : Notice) : (s.raise f).snapshot = s.snapshot := rfl
@[simp] theorem State.pending_raise (f : Notice) : (s.raise f).pending = s.pending := rfl
@[simp] theorem State.bay_raise (f : Notice) (x : BayNo) : (s.raise f).bay x = s.bay x := rfl
@[simp] theorem State.grant_raise (f : Notice) (x : BayNo) : (s.raise f).grant x = s.grant x := rfl
@[simp] theorem State.unit_raise (f : Notice) (x : BayNo) : (s.raise f).unit x = s.unit x := rfl
@[simp] theorem State.slot_raise (f : Notice) (x : SlotNo) : (s.raise f).slot x = s.slot x := rfl
@[simp] theorem State.record_raise (f : Notice) (x : SlotNo) : (s.raise f).record x = s.record x := rfl
@[simp] theorem State.feeder_raise (f : Notice) (x : FeederNo) : (s.raise f).feeder x = s.feeder x := rfl
@[simp] theorem State.lane_raise (f : Notice) (x : LaneNo) : (s.raise f).lane x = s.lane x := rfl

/-! ### evaluateChanges -/

@[simp] theorem State.port_evaluateChanges : (s.evaluateChanges).port = s.port := rfl
@[simp] theorem State.plan_evaluateChanges : (s.evaluateChanges).plan = s.plan := rfl
@[simp] theorem State.staged_evaluateChanges : (s.evaluateChanges).staged = s.staged := rfl
@[simp] theorem State.bays_evaluateChanges : (s.evaluateChanges).bays = s.bays := rfl
@[simp] theorem State.slots_evaluateChanges : (s.evaluateChanges).slots = s.slots := rfl
@[simp] theorem State.freeSlots_evaluateChanges : (s.evaluateChanges).freeSlots = s.freeSlots := rfl
@[simp] theorem State.bookingSeq_evaluateChanges : (s.evaluateChanges).bookingSeq = s.bookingSeq := rfl
@[simp] theorem State.creations_evaluateChanges : (s.evaluateChanges).creations = s.creations := rfl
@[simp] theorem State.highList_evaluateChanges : (s.evaluateChanges).highList = s.highList := rfl
@[simp] theorem State.normalList_evaluateChanges : (s.evaluateChanges).normalList = s.normalList := rfl
@[simp] theorem State.ratioCount_evaluateChanges : (s.evaluateChanges).ratioCount = s.ratioCount := rfl
@[simp] theorem State.clock_evaluateChanges : (s.evaluateChanges).clock = s.clock := rfl
@[simp] theorem State.deadlines_evaluateChanges : (s.evaluateChanges).deadlines = s.deadlines := rfl
@[simp] theorem State.feeders_evaluateChanges : (s.evaluateChanges).feeders = s.feeders := rfl
@[simp] theorem State.effective_evaluateChanges : (s.evaluateChanges).effective = s.effective := rfl
@[simp] theorem State.grants_evaluateChanges : (s.evaluateChanges).grants = s.grants := rfl
@[simp] theorem State.sessionSeq_evaluateChanges : (s.evaluateChanges).sessionSeq = s.sessionSeq := rfl
@[simp] theorem State.starts_evaluateChanges : (s.evaluateChanges).starts = s.starts := rfl
@[simp] theorem State.curtailment_evaluateChanges : (s.evaluateChanges).curtailment = s.curtailment := rfl
@[simp] theorem State.lanes_evaluateChanges : (s.evaluateChanges).lanes = s.lanes := rfl
@[simp] theorem State.units_evaluateChanges : (s.evaluateChanges).units = s.units := rfl
@[simp] theorem State.counters_evaluateChanges : (s.evaluateChanges).counters = s.counters := rfl
@[simp] theorem State.snapshot_evaluateChanges : (s.evaluateChanges).snapshot = s.snapshot := rfl
@[simp] theorem State.pending_evaluateChanges : (s.evaluateChanges).pending = s.pending := rfl
@[simp] theorem State.bay_evaluateChanges (x : BayNo) : (s.evaluateChanges).bay x = s.bay x := rfl
@[simp] theorem State.grant_evaluateChanges (x : BayNo) : (s.evaluateChanges).grant x = s.grant x := rfl
@[simp] theorem State.unit_evaluateChanges (x : BayNo) : (s.evaluateChanges).unit x = s.unit x := rfl
@[simp] theorem State.slot_evaluateChanges (x : SlotNo) : (s.evaluateChanges).slot x = s.slot x := rfl
@[simp] theorem State.record_evaluateChanges (x : SlotNo) : (s.evaluateChanges).record x = s.record x := rfl
@[simp] theorem State.feeder_evaluateChanges (x : FeederNo) : (s.evaluateChanges).feeder x = s.feeder x := rfl
@[simp] theorem State.lane_evaluateChanges (x : LaneNo) : (s.evaluateChanges).lane x = s.lane x := rfl

/-! ### setMark -/

@[simp] theorem State.port_setMark (i : SlotNo) : (s.setMark i).port = s.port := rfl
@[simp] theorem State.plan_setMark (i : SlotNo) : (s.setMark i).plan = s.plan := rfl
@[simp] theorem State.staged_setMark (i : SlotNo) : (s.setMark i).staged = s.staged := rfl
@[simp] theorem State.bays_setMark (i : SlotNo) : (s.setMark i).bays = s.bays := rfl
@[simp] theorem State.freeSlots_setMark (i : SlotNo) : (s.setMark i).freeSlots = s.freeSlots := rfl
@[simp] theorem State.bookingSeq_setMark (i : SlotNo) : (s.setMark i).bookingSeq = s.bookingSeq := rfl
@[simp] theorem State.creations_setMark (i : SlotNo) : (s.setMark i).creations = s.creations := rfl
@[simp] theorem State.highList_setMark (i : SlotNo) : (s.setMark i).highList = s.highList := rfl
@[simp] theorem State.normalList_setMark (i : SlotNo) : (s.setMark i).normalList = s.normalList := rfl
@[simp] theorem State.ratioCount_setMark (i : SlotNo) : (s.setMark i).ratioCount = s.ratioCount := rfl
@[simp] theorem State.clock_setMark (i : SlotNo) : (s.setMark i).clock = s.clock := rfl
@[simp] theorem State.deadlines_setMark (i : SlotNo) : (s.setMark i).deadlines = s.deadlines := rfl
@[simp] theorem State.feeders_setMark (i : SlotNo) : (s.setMark i).feeders = s.feeders := rfl
@[simp] theorem State.effective_setMark (i : SlotNo) : (s.setMark i).effective = s.effective := rfl
@[simp] theorem State.grants_setMark (i : SlotNo) : (s.setMark i).grants = s.grants := rfl
@[simp] theorem State.sessionSeq_setMark (i : SlotNo) : (s.setMark i).sessionSeq = s.sessionSeq := rfl
@[simp] theorem State.starts_setMark (i : SlotNo) : (s.setMark i).starts = s.starts := rfl
@[simp] theorem State.curtailment_setMark (i : SlotNo) : (s.setMark i).curtailment = s.curtailment := rfl
@[simp] theorem State.lanes_setMark (i : SlotNo) : (s.setMark i).lanes = s.lanes := rfl
@[simp] theorem State.units_setMark (i : SlotNo) : (s.setMark i).units = s.units := rfl
@[simp] theorem State.counters_setMark (i : SlotNo) : (s.setMark i).counters = s.counters := rfl
@[simp] theorem State.snapshot_setMark (i : SlotNo) : (s.setMark i).snapshot = s.snapshot := rfl
@[simp] theorem State.pending_setMark (i : SlotNo) : (s.setMark i).pending = s.pending := rfl
@[simp] theorem State.bay_setMark (i : SlotNo) (x : BayNo) : (s.setMark i).bay x = s.bay x := rfl
@[simp] theorem State.grant_setMark (i : SlotNo) (x : BayNo) : (s.setMark i).grant x = s.grant x := rfl
@[simp] theorem State.unit_setMark (i : SlotNo) (x : BayNo) : (s.setMark i).unit x = s.unit x := rfl
@[simp] theorem State.feeder_setMark (i : SlotNo) (x : FeederNo) : (s.setMark i).feeder x = s.feeder x := rfl
@[simp] theorem State.lane_setMark (i : SlotNo) (x : LaneNo) : (s.setMark i).lane x = s.lane x := rfl

/-! ### shiftOut -/

@[simp] theorem State.plan_shiftOut (bytes : List Byte) : (s.shiftOut bytes).plan = s.plan := rfl
@[simp] theorem State.staged_shiftOut (bytes : List Byte) : (s.shiftOut bytes).staged = s.staged := rfl
@[simp] theorem State.bays_shiftOut (bytes : List Byte) : (s.shiftOut bytes).bays = s.bays := rfl
@[simp] theorem State.slots_shiftOut (bytes : List Byte) : (s.shiftOut bytes).slots = s.slots := rfl
@[simp] theorem State.freeSlots_shiftOut (bytes : List Byte) : (s.shiftOut bytes).freeSlots = s.freeSlots := rfl
@[simp] theorem State.bookingSeq_shiftOut (bytes : List Byte) : (s.shiftOut bytes).bookingSeq = s.bookingSeq := rfl
@[simp] theorem State.creations_shiftOut (bytes : List Byte) : (s.shiftOut bytes).creations = s.creations := rfl
@[simp] theorem State.highList_shiftOut (bytes : List Byte) : (s.shiftOut bytes).highList = s.highList := rfl
@[simp] theorem State.normalList_shiftOut (bytes : List Byte) : (s.shiftOut bytes).normalList = s.normalList := rfl
@[simp] theorem State.ratioCount_shiftOut (bytes : List Byte) : (s.shiftOut bytes).ratioCount = s.ratioCount := rfl
@[simp] theorem State.clock_shiftOut (bytes : List Byte) : (s.shiftOut bytes).clock = s.clock := rfl
@[simp] theorem State.deadlines_shiftOut (bytes : List Byte) : (s.shiftOut bytes).deadlines = s.deadlines := rfl
@[simp] theorem State.feeders_shiftOut (bytes : List Byte) : (s.shiftOut bytes).feeders = s.feeders := rfl
@[simp] theorem State.effective_shiftOut (bytes : List Byte) : (s.shiftOut bytes).effective = s.effective := rfl
@[simp] theorem State.grants_shiftOut (bytes : List Byte) : (s.shiftOut bytes).grants = s.grants := rfl
@[simp] theorem State.sessionSeq_shiftOut (bytes : List Byte) : (s.shiftOut bytes).sessionSeq = s.sessionSeq := rfl
@[simp] theorem State.starts_shiftOut (bytes : List Byte) : (s.shiftOut bytes).starts = s.starts := rfl
@[simp] theorem State.curtailment_shiftOut (bytes : List Byte) : (s.shiftOut bytes).curtailment = s.curtailment := rfl
@[simp] theorem State.lanes_shiftOut (bytes : List Byte) : (s.shiftOut bytes).lanes = s.lanes := rfl
@[simp] theorem State.units_shiftOut (bytes : List Byte) : (s.shiftOut bytes).units = s.units := rfl
@[simp] theorem State.notices_shiftOut (bytes : List Byte) : (s.shiftOut bytes).notices = s.notices := rfl
@[simp] theorem State.counters_shiftOut (bytes : List Byte) : (s.shiftOut bytes).counters = s.counters := rfl
@[simp] theorem State.snapshot_shiftOut (bytes : List Byte) : (s.shiftOut bytes).snapshot = s.snapshot := rfl
@[simp] theorem State.pending_shiftOut (bytes : List Byte) : (s.shiftOut bytes).pending = s.pending := rfl
@[simp] theorem State.bay_shiftOut (bytes : List Byte) (x : BayNo) : (s.shiftOut bytes).bay x = s.bay x := rfl
@[simp] theorem State.grant_shiftOut (bytes : List Byte) (x : BayNo) : (s.shiftOut bytes).grant x = s.grant x := rfl
@[simp] theorem State.unit_shiftOut (bytes : List Byte) (x : BayNo) : (s.shiftOut bytes).unit x = s.unit x := rfl
@[simp] theorem State.slot_shiftOut (bytes : List Byte) (x : SlotNo) : (s.shiftOut bytes).slot x = s.slot x := rfl
@[simp] theorem State.record_shiftOut (bytes : List Byte) (x : SlotNo) : (s.shiftOut bytes).record x = s.record x := rfl
@[simp] theorem State.feeder_shiftOut (bytes : List Byte) (x : FeederNo) : (s.shiftOut bytes).feeder x = s.feeder x := rfl
@[simp] theorem State.lane_shiftOut (bytes : List Byte) (x : LaneNo) : (s.shiftOut bytes).lane x = s.lane x := rfl

/-! ### takeFrame -/

@[simp] theorem State.plan_takeFrame (bytes : List Byte) : (s.takeFrame bytes).plan = s.plan := rfl
@[simp] theorem State.staged_takeFrame (bytes : List Byte) : (s.takeFrame bytes).staged = s.staged := rfl
@[simp] theorem State.bays_takeFrame (bytes : List Byte) : (s.takeFrame bytes).bays = s.bays := rfl
@[simp] theorem State.slots_takeFrame (bytes : List Byte) : (s.takeFrame bytes).slots = s.slots := rfl
@[simp] theorem State.freeSlots_takeFrame (bytes : List Byte) : (s.takeFrame bytes).freeSlots = s.freeSlots := rfl
@[simp] theorem State.bookingSeq_takeFrame (bytes : List Byte) : (s.takeFrame bytes).bookingSeq = s.bookingSeq := rfl
@[simp] theorem State.creations_takeFrame (bytes : List Byte) : (s.takeFrame bytes).creations = s.creations := rfl
@[simp] theorem State.highList_takeFrame (bytes : List Byte) : (s.takeFrame bytes).highList = s.highList := rfl
@[simp] theorem State.normalList_takeFrame (bytes : List Byte) : (s.takeFrame bytes).normalList = s.normalList := rfl
@[simp] theorem State.ratioCount_takeFrame (bytes : List Byte) : (s.takeFrame bytes).ratioCount = s.ratioCount := rfl
@[simp] theorem State.clock_takeFrame (bytes : List Byte) : (s.takeFrame bytes).clock = s.clock := rfl
@[simp] theorem State.deadlines_takeFrame (bytes : List Byte) : (s.takeFrame bytes).deadlines = s.deadlines := rfl
@[simp] theorem State.feeders_takeFrame (bytes : List Byte) : (s.takeFrame bytes).feeders = s.feeders := rfl
@[simp] theorem State.effective_takeFrame (bytes : List Byte) : (s.takeFrame bytes).effective = s.effective := rfl
@[simp] theorem State.grants_takeFrame (bytes : List Byte) : (s.takeFrame bytes).grants = s.grants := rfl
@[simp] theorem State.sessionSeq_takeFrame (bytes : List Byte) : (s.takeFrame bytes).sessionSeq = s.sessionSeq := rfl
@[simp] theorem State.starts_takeFrame (bytes : List Byte) : (s.takeFrame bytes).starts = s.starts := rfl
@[simp] theorem State.curtailment_takeFrame (bytes : List Byte) : (s.takeFrame bytes).curtailment = s.curtailment := rfl
@[simp] theorem State.lanes_takeFrame (bytes : List Byte) : (s.takeFrame bytes).lanes = s.lanes := rfl
@[simp] theorem State.units_takeFrame (bytes : List Byte) : (s.takeFrame bytes).units = s.units := rfl
@[simp] theorem State.notices_takeFrame (bytes : List Byte) : (s.takeFrame bytes).notices = s.notices := rfl
@[simp] theorem State.counters_takeFrame (bytes : List Byte) : (s.takeFrame bytes).counters = s.counters := rfl
@[simp] theorem State.snapshot_takeFrame (bytes : List Byte) : (s.takeFrame bytes).snapshot = s.snapshot := rfl
@[simp] theorem State.pending_takeFrame (bytes : List Byte) : (s.takeFrame bytes).pending = s.pending := rfl
@[simp] theorem State.bay_takeFrame (bytes : List Byte) (x : BayNo) : (s.takeFrame bytes).bay x = s.bay x := rfl
@[simp] theorem State.grant_takeFrame (bytes : List Byte) (x : BayNo) : (s.takeFrame bytes).grant x = s.grant x := rfl
@[simp] theorem State.unit_takeFrame (bytes : List Byte) (x : BayNo) : (s.takeFrame bytes).unit x = s.unit x := rfl
@[simp] theorem State.slot_takeFrame (bytes : List Byte) (x : SlotNo) : (s.takeFrame bytes).slot x = s.slot x := rfl
@[simp] theorem State.record_takeFrame (bytes : List Byte) (x : SlotNo) : (s.takeFrame bytes).record x = s.record x := rfl
@[simp] theorem State.feeder_takeFrame (bytes : List Byte) (x : FeederNo) : (s.takeFrame bytes).feeder x = s.feeder x := rfl
@[simp] theorem State.lane_takeFrame (bytes : List Byte) (x : LaneNo) : (s.takeFrame bytes).lane x = s.lane x := rfl

/-! ### reply -/

@[simp] theorem State.port_reply (code : Byte) (st : Status) (body : List Byte) : (s.reply code st body).port =
    { s.port with state := .reply, frame := [], request := none, reply := some (portFrame (replyCode code) st.code body) } := rfl
@[simp] theorem State.plan_reply (code : Byte) (st : Status) (body : List Byte) : (s.reply code st body).plan = s.plan := rfl
@[simp] theorem State.staged_reply (code : Byte) (st : Status) (body : List Byte) : (s.reply code st body).staged = s.staged := rfl
@[simp] theorem State.bays_reply (code : Byte) (st : Status) (body : List Byte) : (s.reply code st body).bays = s.bays := rfl
@[simp] theorem State.slots_reply (code : Byte) (st : Status) (body : List Byte) : (s.reply code st body).slots = s.slots := rfl
@[simp] theorem State.freeSlots_reply (code : Byte) (st : Status) (body : List Byte) : (s.reply code st body).freeSlots = s.freeSlots := rfl
@[simp] theorem State.bookingSeq_reply (code : Byte) (st : Status) (body : List Byte) : (s.reply code st body).bookingSeq = s.bookingSeq := rfl
@[simp] theorem State.creations_reply (code : Byte) (st : Status) (body : List Byte) : (s.reply code st body).creations = s.creations := rfl
@[simp] theorem State.highList_reply (code : Byte) (st : Status) (body : List Byte) : (s.reply code st body).highList = s.highList := rfl
@[simp] theorem State.normalList_reply (code : Byte) (st : Status) (body : List Byte) : (s.reply code st body).normalList = s.normalList := rfl
@[simp] theorem State.ratioCount_reply (code : Byte) (st : Status) (body : List Byte) : (s.reply code st body).ratioCount = s.ratioCount := rfl
@[simp] theorem State.clock_reply (code : Byte) (st : Status) (body : List Byte) : (s.reply code st body).clock = s.clock := rfl
@[simp] theorem State.deadlines_reply (code : Byte) (st : Status) (body : List Byte) : (s.reply code st body).deadlines = s.deadlines := rfl
@[simp] theorem State.feeders_reply (code : Byte) (st : Status) (body : List Byte) : (s.reply code st body).feeders = s.feeders := rfl
@[simp] theorem State.effective_reply (code : Byte) (st : Status) (body : List Byte) : (s.reply code st body).effective = s.effective := rfl
@[simp] theorem State.grants_reply (code : Byte) (st : Status) (body : List Byte) : (s.reply code st body).grants = s.grants := rfl
@[simp] theorem State.sessionSeq_reply (code : Byte) (st : Status) (body : List Byte) : (s.reply code st body).sessionSeq = s.sessionSeq := rfl
@[simp] theorem State.starts_reply (code : Byte) (st : Status) (body : List Byte) : (s.reply code st body).starts = s.starts := rfl
@[simp] theorem State.curtailment_reply (code : Byte) (st : Status) (body : List Byte) : (s.reply code st body).curtailment = s.curtailment := rfl
@[simp] theorem State.lanes_reply (code : Byte) (st : Status) (body : List Byte) : (s.reply code st body).lanes = s.lanes := rfl
@[simp] theorem State.units_reply (code : Byte) (st : Status) (body : List Byte) : (s.reply code st body).units = s.units := rfl
@[simp] theorem State.notices_reply (code : Byte) (st : Status) (body : List Byte) : (s.reply code st body).notices = s.notices := rfl
@[simp] theorem State.counters_reply (code : Byte) (st : Status) (body : List Byte) : (s.reply code st body).counters = s.counters := rfl
@[simp] theorem State.snapshot_reply (code : Byte) (st : Status) (body : List Byte) : (s.reply code st body).snapshot = s.snapshot := rfl
@[simp] theorem State.pending_reply (code : Byte) (st : Status) (body : List Byte) : (s.reply code st body).pending = s.pending := rfl
@[simp] theorem State.bay_reply (code : Byte) (st : Status) (body : List Byte) (x : BayNo) : (s.reply code st body).bay x = s.bay x := rfl
@[simp] theorem State.grant_reply (code : Byte) (st : Status) (body : List Byte) (x : BayNo) : (s.reply code st body).grant x = s.grant x := rfl
@[simp] theorem State.unit_reply (code : Byte) (st : Status) (body : List Byte) (x : BayNo) : (s.reply code st body).unit x = s.unit x := rfl
@[simp] theorem State.slot_reply (code : Byte) (st : Status) (body : List Byte) (x : SlotNo) : (s.reply code st body).slot x = s.slot x := rfl
@[simp] theorem State.record_reply (code : Byte) (st : Status) (body : List Byte) (x : SlotNo) : (s.reply code st body).record x = s.record x := rfl
@[simp] theorem State.feeder_reply (code : Byte) (st : Status) (body : List Byte) (x : FeederNo) : (s.reply code st body).feeder x = s.feeder x := rfl
@[simp] theorem State.lane_reply (code : Byte) (st : Status) (body : List Byte) (x : LaneNo) : (s.reply code st body).lane x = s.lane x := rfl

/-! ### handOver -/

@[simp] theorem State.port_handOver (c : Instr) : (s.handOver c).port = { s.port with request := some c } := rfl
@[simp] theorem State.plan_handOver (c : Instr) : (s.handOver c).plan = s.plan := rfl
@[simp] theorem State.staged_handOver (c : Instr) : (s.handOver c).staged = s.staged := rfl
@[simp] theorem State.bays_handOver (c : Instr) : (s.handOver c).bays = s.bays := rfl
@[simp] theorem State.slots_handOver (c : Instr) : (s.handOver c).slots = s.slots := rfl
@[simp] theorem State.freeSlots_handOver (c : Instr) : (s.handOver c).freeSlots = s.freeSlots := rfl
@[simp] theorem State.bookingSeq_handOver (c : Instr) : (s.handOver c).bookingSeq = s.bookingSeq := rfl
@[simp] theorem State.creations_handOver (c : Instr) : (s.handOver c).creations = s.creations := rfl
@[simp] theorem State.highList_handOver (c : Instr) : (s.handOver c).highList = s.highList := rfl
@[simp] theorem State.normalList_handOver (c : Instr) : (s.handOver c).normalList = s.normalList := rfl
@[simp] theorem State.ratioCount_handOver (c : Instr) : (s.handOver c).ratioCount = s.ratioCount := rfl
@[simp] theorem State.clock_handOver (c : Instr) : (s.handOver c).clock = s.clock := rfl
@[simp] theorem State.deadlines_handOver (c : Instr) : (s.handOver c).deadlines = s.deadlines := rfl
@[simp] theorem State.feeders_handOver (c : Instr) : (s.handOver c).feeders = s.feeders := rfl
@[simp] theorem State.effective_handOver (c : Instr) : (s.handOver c).effective = s.effective := rfl
@[simp] theorem State.grants_handOver (c : Instr) : (s.handOver c).grants = s.grants := rfl
@[simp] theorem State.sessionSeq_handOver (c : Instr) : (s.handOver c).sessionSeq = s.sessionSeq := rfl
@[simp] theorem State.starts_handOver (c : Instr) : (s.handOver c).starts = s.starts := rfl
@[simp] theorem State.curtailment_handOver (c : Instr) : (s.handOver c).curtailment = s.curtailment := rfl
@[simp] theorem State.lanes_handOver (c : Instr) : (s.handOver c).lanes = s.lanes := rfl
@[simp] theorem State.units_handOver (c : Instr) : (s.handOver c).units = s.units := rfl
@[simp] theorem State.notices_handOver (c : Instr) : (s.handOver c).notices = s.notices := rfl
@[simp] theorem State.counters_handOver (c : Instr) : (s.handOver c).counters = s.counters := rfl
@[simp] theorem State.snapshot_handOver (c : Instr) : (s.handOver c).snapshot = s.snapshot := rfl
@[simp] theorem State.pending_handOver (c : Instr) : (s.handOver c).pending = s.pending := rfl
@[simp] theorem State.bay_handOver (c : Instr) (x : BayNo) : (s.handOver c).bay x = s.bay x := rfl
@[simp] theorem State.grant_handOver (c : Instr) (x : BayNo) : (s.handOver c).grant x = s.grant x := rfl
@[simp] theorem State.unit_handOver (c : Instr) (x : BayNo) : (s.handOver c).unit x = s.unit x := rfl
@[simp] theorem State.slot_handOver (c : Instr) (x : SlotNo) : (s.handOver c).slot x = s.slot x := rfl
@[simp] theorem State.record_handOver (c : Instr) (x : SlotNo) : (s.handOver c).record x = s.record x := rfl
@[simp] theorem State.feeder_handOver (c : Instr) (x : FeederNo) : (s.handOver c).feeder x = s.feeder x := rfl
@[simp] theorem State.lane_handOver (c : Instr) (x : LaneNo) : (s.handOver c).lane x = s.lane x := rfl

/-! ### setSequence -/

@[simp] theorem State.plan_setSequence (q : Option Nat) : (s.setSequence q).plan = s.plan := rfl
@[simp] theorem State.staged_setSequence (q : Option Nat) : (s.setSequence q).staged = s.staged := rfl
@[simp] theorem State.bays_setSequence (q : Option Nat) : (s.setSequence q).bays = s.bays := rfl
@[simp] theorem State.slots_setSequence (q : Option Nat) : (s.setSequence q).slots = s.slots := rfl
@[simp] theorem State.freeSlots_setSequence (q : Option Nat) : (s.setSequence q).freeSlots = s.freeSlots := rfl
@[simp] theorem State.bookingSeq_setSequence (q : Option Nat) : (s.setSequence q).bookingSeq = s.bookingSeq := rfl
@[simp] theorem State.creations_setSequence (q : Option Nat) : (s.setSequence q).creations = s.creations := rfl
@[simp] theorem State.highList_setSequence (q : Option Nat) : (s.setSequence q).highList = s.highList := rfl
@[simp] theorem State.normalList_setSequence (q : Option Nat) : (s.setSequence q).normalList = s.normalList := rfl
@[simp] theorem State.ratioCount_setSequence (q : Option Nat) : (s.setSequence q).ratioCount = s.ratioCount := rfl
@[simp] theorem State.clock_setSequence (q : Option Nat) : (s.setSequence q).clock = s.clock := rfl
@[simp] theorem State.deadlines_setSequence (q : Option Nat) : (s.setSequence q).deadlines = s.deadlines := rfl
@[simp] theorem State.feeders_setSequence (q : Option Nat) : (s.setSequence q).feeders = s.feeders := rfl
@[simp] theorem State.effective_setSequence (q : Option Nat) : (s.setSequence q).effective = s.effective := rfl
@[simp] theorem State.grants_setSequence (q : Option Nat) : (s.setSequence q).grants = s.grants := rfl
@[simp] theorem State.sessionSeq_setSequence (q : Option Nat) : (s.setSequence q).sessionSeq = s.sessionSeq := rfl
@[simp] theorem State.starts_setSequence (q : Option Nat) : (s.setSequence q).starts = s.starts := rfl
@[simp] theorem State.curtailment_setSequence (q : Option Nat) : (s.setSequence q).curtailment = s.curtailment := rfl
@[simp] theorem State.lanes_setSequence (q : Option Nat) : (s.setSequence q).lanes = s.lanes := rfl
@[simp] theorem State.units_setSequence (q : Option Nat) : (s.setSequence q).units = s.units := rfl
@[simp] theorem State.notices_setSequence (q : Option Nat) : (s.setSequence q).notices = s.notices := rfl
@[simp] theorem State.counters_setSequence (q : Option Nat) : (s.setSequence q).counters = s.counters := rfl
@[simp] theorem State.snapshot_setSequence (q : Option Nat) : (s.setSequence q).snapshot = s.snapshot := rfl
@[simp] theorem State.pending_setSequence (q : Option Nat) : (s.setSequence q).pending = s.pending := rfl
@[simp] theorem State.bay_setSequence (q : Option Nat) (x : BayNo) : (s.setSequence q).bay x = s.bay x := rfl
@[simp] theorem State.grant_setSequence (q : Option Nat) (x : BayNo) : (s.setSequence q).grant x = s.grant x := rfl
@[simp] theorem State.unit_setSequence (q : Option Nat) (x : BayNo) : (s.setSequence q).unit x = s.unit x := rfl
@[simp] theorem State.slot_setSequence (q : Option Nat) (x : SlotNo) : (s.setSequence q).slot x = s.slot x := rfl
@[simp] theorem State.record_setSequence (q : Option Nat) (x : SlotNo) : (s.setSequence q).record x = s.record x := rfl
@[simp] theorem State.feeder_setSequence (q : Option Nat) (x : FeederNo) : (s.setSequence q).feeder x = s.feeder x := rfl
@[simp] theorem State.lane_setSequence (q : Option Nat) (x : LaneNo) : (s.setSequence q).lane x = s.lane x := rfl

/-! ### modFeederOf -/

@[simp] theorem State.port_modFeederOf (b : BayNo) (g : Feeder → Feeder) : (s.modFeederOf b g).port = s.port := by
  unfold State.modFeederOf; split <;> rfl
@[simp] theorem State.plan_modFeederOf (b : BayNo) (g : Feeder → Feeder) : (s.modFeederOf b g).plan = s.plan := by
  unfold State.modFeederOf; split <;> rfl
@[simp] theorem State.staged_modFeederOf (b : BayNo) (g : Feeder → Feeder) : (s.modFeederOf b g).staged = s.staged := by
  unfold State.modFeederOf; split <;> rfl
@[simp] theorem State.bays_modFeederOf (b : BayNo) (g : Feeder → Feeder) : (s.modFeederOf b g).bays = s.bays := by
  unfold State.modFeederOf; split <;> rfl
@[simp] theorem State.slots_modFeederOf (b : BayNo) (g : Feeder → Feeder) : (s.modFeederOf b g).slots = s.slots := by
  unfold State.modFeederOf; split <;> rfl
@[simp] theorem State.freeSlots_modFeederOf (b : BayNo) (g : Feeder → Feeder) : (s.modFeederOf b g).freeSlots = s.freeSlots := by
  unfold State.modFeederOf; split <;> rfl
@[simp] theorem State.bookingSeq_modFeederOf (b : BayNo) (g : Feeder → Feeder) : (s.modFeederOf b g).bookingSeq = s.bookingSeq := by
  unfold State.modFeederOf; split <;> rfl
@[simp] theorem State.creations_modFeederOf (b : BayNo) (g : Feeder → Feeder) : (s.modFeederOf b g).creations = s.creations := by
  unfold State.modFeederOf; split <;> rfl
@[simp] theorem State.highList_modFeederOf (b : BayNo) (g : Feeder → Feeder) : (s.modFeederOf b g).highList = s.highList := by
  unfold State.modFeederOf; split <;> rfl
@[simp] theorem State.normalList_modFeederOf (b : BayNo) (g : Feeder → Feeder) : (s.modFeederOf b g).normalList = s.normalList := by
  unfold State.modFeederOf; split <;> rfl
@[simp] theorem State.ratioCount_modFeederOf (b : BayNo) (g : Feeder → Feeder) : (s.modFeederOf b g).ratioCount = s.ratioCount := by
  unfold State.modFeederOf; split <;> rfl
@[simp] theorem State.clock_modFeederOf (b : BayNo) (g : Feeder → Feeder) : (s.modFeederOf b g).clock = s.clock := by
  unfold State.modFeederOf; split <;> rfl
@[simp] theorem State.deadlines_modFeederOf (b : BayNo) (g : Feeder → Feeder) : (s.modFeederOf b g).deadlines = s.deadlines := by
  unfold State.modFeederOf; split <;> rfl
@[simp] theorem State.effective_modFeederOf (b : BayNo) (g : Feeder → Feeder) : (s.modFeederOf b g).effective = s.effective := by
  unfold State.modFeederOf; split <;> rfl
@[simp] theorem State.grants_modFeederOf (b : BayNo) (g : Feeder → Feeder) : (s.modFeederOf b g).grants = s.grants := by
  unfold State.modFeederOf; split <;> rfl
@[simp] theorem State.sessionSeq_modFeederOf (b : BayNo) (g : Feeder → Feeder) : (s.modFeederOf b g).sessionSeq = s.sessionSeq := by
  unfold State.modFeederOf; split <;> rfl
@[simp] theorem State.starts_modFeederOf (b : BayNo) (g : Feeder → Feeder) : (s.modFeederOf b g).starts = s.starts := by
  unfold State.modFeederOf; split <;> rfl
@[simp] theorem State.curtailment_modFeederOf (b : BayNo) (g : Feeder → Feeder) : (s.modFeederOf b g).curtailment = s.curtailment := by
  unfold State.modFeederOf; split <;> rfl
@[simp] theorem State.lanes_modFeederOf (b : BayNo) (g : Feeder → Feeder) : (s.modFeederOf b g).lanes = s.lanes := by
  unfold State.modFeederOf; split <;> rfl
@[simp] theorem State.units_modFeederOf (b : BayNo) (g : Feeder → Feeder) : (s.modFeederOf b g).units = s.units := by
  unfold State.modFeederOf; split <;> rfl
@[simp] theorem State.notices_modFeederOf (b : BayNo) (g : Feeder → Feeder) : (s.modFeederOf b g).notices = s.notices := by
  unfold State.modFeederOf; split <;> rfl
@[simp] theorem State.counters_modFeederOf (b : BayNo) (g : Feeder → Feeder) : (s.modFeederOf b g).counters = s.counters := by
  unfold State.modFeederOf; split <;> rfl
@[simp] theorem State.snapshot_modFeederOf (b : BayNo) (g : Feeder → Feeder) : (s.modFeederOf b g).snapshot = s.snapshot := by
  unfold State.modFeederOf; split <;> rfl
@[simp] theorem State.pending_modFeederOf (b : BayNo) (g : Feeder → Feeder) : (s.modFeederOf b g).pending = s.pending := by
  unfold State.modFeederOf; split <;> rfl
@[simp] theorem State.bay_modFeederOf (b : BayNo) (g : Feeder → Feeder) (x : BayNo) : (s.modFeederOf b g).bay x = s.bay x := by
  simp only [State.bay, State.bays_modFeederOf]
@[simp] theorem State.grant_modFeederOf (b : BayNo) (g : Feeder → Feeder) (x : BayNo) : (s.modFeederOf b g).grant x = s.grant x := by
  simp only [State.grant, State.grants_modFeederOf]
@[simp] theorem State.unit_modFeederOf (b : BayNo) (g : Feeder → Feeder) (x : BayNo) : (s.modFeederOf b g).unit x = s.unit x := by
  simp only [State.unit, State.units_modFeederOf]
@[simp] theorem State.slot_modFeederOf (b : BayNo) (g : Feeder → Feeder) (x : SlotNo) : (s.modFeederOf b g).slot x = s.slot x := by
  simp only [State.slot, State.slots_modFeederOf]
@[simp] theorem State.record_modFeederOf (b : BayNo) (g : Feeder → Feeder) (x : SlotNo) : (s.modFeederOf b g).record x = s.record x := by
  simp only [State.record, State.slot, State.slots_modFeederOf]
@[simp] theorem State.lane_modFeederOf (b : BayNo) (g : Feeder → Feeder) (x : LaneNo) : (s.modFeederOf b g).lane x = s.lane x := by
  simp only [State.lane, State.lanes_modFeederOf]

/-! ### bump -/

@[simp] theorem State.port_bump (c : Counter) : (s.bump c).port = s.port := by
  simp only [State.bump]; split <;> rfl
@[simp] theorem State.plan_bump (c : Counter) : (s.bump c).plan = s.plan := by
  simp only [State.bump]; split <;> rfl
@[simp] theorem State.staged_bump (c : Counter) : (s.bump c).staged = s.staged := by
  simp only [State.bump]; split <;> rfl
@[simp] theorem State.bays_bump (c : Counter) : (s.bump c).bays = s.bays := by
  simp only [State.bump]; split <;> rfl
@[simp] theorem State.slots_bump (c : Counter) : (s.bump c).slots = s.slots := by
  simp only [State.bump]; split <;> rfl
@[simp] theorem State.freeSlots_bump (c : Counter) : (s.bump c).freeSlots = s.freeSlots := by
  simp only [State.bump]; split <;> rfl
@[simp] theorem State.bookingSeq_bump (c : Counter) : (s.bump c).bookingSeq = s.bookingSeq := by
  simp only [State.bump]; split <;> rfl
@[simp] theorem State.creations_bump (c : Counter) : (s.bump c).creations = s.creations := by
  simp only [State.bump]; split <;> rfl
@[simp] theorem State.highList_bump (c : Counter) : (s.bump c).highList = s.highList := by
  simp only [State.bump]; split <;> rfl
@[simp] theorem State.normalList_bump (c : Counter) : (s.bump c).normalList = s.normalList := by
  simp only [State.bump]; split <;> rfl
@[simp] theorem State.ratioCount_bump (c : Counter) : (s.bump c).ratioCount = s.ratioCount := by
  simp only [State.bump]; split <;> rfl
@[simp] theorem State.clock_bump (c : Counter) : (s.bump c).clock = s.clock := by
  simp only [State.bump]; split <;> rfl
@[simp] theorem State.deadlines_bump (c : Counter) : (s.bump c).deadlines = s.deadlines := by
  simp only [State.bump]; split <;> rfl
@[simp] theorem State.feeders_bump (c : Counter) : (s.bump c).feeders = s.feeders := by
  simp only [State.bump]; split <;> rfl
@[simp] theorem State.effective_bump (c : Counter) : (s.bump c).effective = s.effective := by
  simp only [State.bump]; split <;> rfl
@[simp] theorem State.grants_bump (c : Counter) : (s.bump c).grants = s.grants := by
  simp only [State.bump]; split <;> rfl
@[simp] theorem State.sessionSeq_bump (c : Counter) : (s.bump c).sessionSeq = s.sessionSeq := by
  simp only [State.bump]; split <;> rfl
@[simp] theorem State.starts_bump (c : Counter) : (s.bump c).starts = s.starts := by
  simp only [State.bump]; split <;> rfl
@[simp] theorem State.curtailment_bump (c : Counter) : (s.bump c).curtailment = s.curtailment := by
  simp only [State.bump]; split <;> rfl
@[simp] theorem State.lanes_bump (c : Counter) : (s.bump c).lanes = s.lanes := by
  simp only [State.bump]; split <;> rfl
@[simp] theorem State.units_bump (c : Counter) : (s.bump c).units = s.units := by
  simp only [State.bump]; split <;> rfl
@[simp] theorem State.snapshot_bump (c : Counter) : (s.bump c).snapshot = s.snapshot := by
  simp only [State.bump]; split <;> rfl
@[simp] theorem State.pending_bump (c : Counter) : (s.bump c).pending = s.pending := by
  simp only [State.bump]; split <;> rfl
@[simp] theorem State.bay_bump (c : Counter) (x : BayNo) : (s.bump c).bay x = s.bay x := by
  simp only [State.bay, State.bays_bump]
@[simp] theorem State.grant_bump (c : Counter) (x : BayNo) : (s.bump c).grant x = s.grant x := by
  simp only [State.grant, State.grants_bump]
@[simp] theorem State.unit_bump (c : Counter) (x : BayNo) : (s.bump c).unit x = s.unit x := by
  simp only [State.unit, State.units_bump]
@[simp] theorem State.slot_bump (c : Counter) (x : SlotNo) : (s.bump c).slot x = s.slot x := by
  simp only [State.slot, State.slots_bump]
@[simp] theorem State.record_bump (c : Counter) (x : SlotNo) : (s.bump c).record x = s.record x := by
  simp only [State.record, State.slot, State.slots_bump]
@[simp] theorem State.feeder_bump (c : Counter) (x : FeederNo) : (s.bump c).feeder x = s.feeder x := by
  simp only [State.feeder, State.feeders_bump]
@[simp] theorem State.lane_bump (c : Counter) (x : LaneNo) : (s.bump c).lane x = s.lane x := by
  simp only [State.lane, State.lanes_bump]

/-! ### handGrant -/

@[simp] theorem State.port_handGrant (b : BayNo) (v : Nat) (fl : OrderFlag) : (s.handGrant b v fl).port = s.port := rfl
@[simp] theorem State.plan_handGrant (b : BayNo) (v : Nat) (fl : OrderFlag) : (s.handGrant b v fl).plan = s.plan := rfl
@[simp] theorem State.staged_handGrant (b : BayNo) (v : Nat) (fl : OrderFlag) : (s.handGrant b v fl).staged = s.staged := rfl
@[simp] theorem State.bays_handGrant (b : BayNo) (v : Nat) (fl : OrderFlag) : (s.handGrant b v fl).bays = s.bays := rfl
@[simp] theorem State.slots_handGrant (b : BayNo) (v : Nat) (fl : OrderFlag) : (s.handGrant b v fl).slots = s.slots := rfl
@[simp] theorem State.freeSlots_handGrant (b : BayNo) (v : Nat) (fl : OrderFlag) : (s.handGrant b v fl).freeSlots = s.freeSlots := rfl
@[simp] theorem State.bookingSeq_handGrant (b : BayNo) (v : Nat) (fl : OrderFlag) : (s.handGrant b v fl).bookingSeq = s.bookingSeq := rfl
@[simp] theorem State.creations_handGrant (b : BayNo) (v : Nat) (fl : OrderFlag) : (s.handGrant b v fl).creations = s.creations := rfl
@[simp] theorem State.highList_handGrant (b : BayNo) (v : Nat) (fl : OrderFlag) : (s.handGrant b v fl).highList = s.highList := rfl
@[simp] theorem State.normalList_handGrant (b : BayNo) (v : Nat) (fl : OrderFlag) : (s.handGrant b v fl).normalList = s.normalList := rfl
@[simp] theorem State.ratioCount_handGrant (b : BayNo) (v : Nat) (fl : OrderFlag) : (s.handGrant b v fl).ratioCount = s.ratioCount := rfl
@[simp] theorem State.clock_handGrant (b : BayNo) (v : Nat) (fl : OrderFlag) : (s.handGrant b v fl).clock = s.clock := rfl
@[simp] theorem State.deadlines_handGrant (b : BayNo) (v : Nat) (fl : OrderFlag) : (s.handGrant b v fl).deadlines = s.deadlines := rfl
@[simp] theorem State.feeders_handGrant (b : BayNo) (v : Nat) (fl : OrderFlag) : (s.handGrant b v fl).feeders = s.feeders := rfl
@[simp] theorem State.effective_handGrant (b : BayNo) (v : Nat) (fl : OrderFlag) : (s.handGrant b v fl).effective = s.effective := rfl
@[simp] theorem State.sessionSeq_handGrant (b : BayNo) (v : Nat) (fl : OrderFlag) : (s.handGrant b v fl).sessionSeq = s.sessionSeq := rfl
@[simp] theorem State.starts_handGrant (b : BayNo) (v : Nat) (fl : OrderFlag) : (s.handGrant b v fl).starts = s.starts := rfl
@[simp] theorem State.curtailment_handGrant (b : BayNo) (v : Nat) (fl : OrderFlag) : (s.handGrant b v fl).curtailment = s.curtailment := rfl
@[simp] theorem State.units_handGrant (b : BayNo) (v : Nat) (fl : OrderFlag) : (s.handGrant b v fl).units = s.units := rfl
@[simp] theorem State.notices_handGrant (b : BayNo) (v : Nat) (fl : OrderFlag) : (s.handGrant b v fl).notices = s.notices := rfl
@[simp] theorem State.counters_handGrant (b : BayNo) (v : Nat) (fl : OrderFlag) : (s.handGrant b v fl).counters = s.counters := rfl
@[simp] theorem State.snapshot_handGrant (b : BayNo) (v : Nat) (fl : OrderFlag) : (s.handGrant b v fl).snapshot = s.snapshot := rfl
@[simp] theorem State.pending_handGrant (b : BayNo) (v : Nat) (fl : OrderFlag) : (s.handGrant b v fl).pending = s.pending := rfl
@[simp] theorem State.bay_handGrant (b : BayNo) (v : Nat) (fl : OrderFlag) (x : BayNo) : (s.handGrant b v fl).bay x = s.bay x := rfl
@[simp] theorem State.unit_handGrant (b : BayNo) (v : Nat) (fl : OrderFlag) (x : BayNo) : (s.handGrant b v fl).unit x = s.unit x := rfl
@[simp] theorem State.slot_handGrant (b : BayNo) (v : Nat) (fl : OrderFlag) (x : SlotNo) : (s.handGrant b v fl).slot x = s.slot x := rfl
@[simp] theorem State.record_handGrant (b : BayNo) (v : Nat) (fl : OrderFlag) (x : SlotNo) : (s.handGrant b v fl).record x = s.record x := rfl
@[simp] theorem State.feeder_handGrant (b : BayNo) (v : Nat) (fl : OrderFlag) (x : FeederNo) : (s.handGrant b v fl).feeder x = s.feeder x := rfl

/-! ### aspectOrder -/

@[simp] theorem State.port_aspectOrder (b : BayNo) (fl : Bool) : (s.aspectOrder b fl).port = s.port := by
  unfold State.aspectOrder; split <;> rfl
@[simp] theorem State.plan_aspectOrder (b : BayNo) (fl : Bool) : (s.aspectOrder b fl).plan = s.plan := by
  unfold State.aspectOrder; split <;> rfl
@[simp] theorem State.staged_aspectOrder (b : BayNo) (fl : Bool) : (s.aspectOrder b fl).staged = s.staged := by
  unfold State.aspectOrder; split <;> rfl
@[simp] theorem State.bays_aspectOrder (b : BayNo) (fl : Bool) : (s.aspectOrder b fl).bays = s.bays := by
  unfold State.aspectOrder; split <;> rfl
@[simp] theorem State.slots_aspectOrder (b : BayNo) (fl : Bool) : (s.aspectOrder b fl).slots = s.slots := by
  unfold State.aspectOrder; split <;> rfl
@[simp] theorem State.freeSlots_aspectOrder (b : BayNo) (fl : Bool) : (s.aspectOrder b fl).freeSlots = s.freeSlots := by
  unfold State.aspectOrder; split <;> rfl
@[simp] theorem State.bookingSeq_aspectOrder (b : BayNo) (fl : Bool) : (s.aspectOrder b fl).bookingSeq = s.bookingSeq := by
  unfold State.aspectOrder; split <;> rfl
@[simp] theorem State.creations_aspectOrder (b : BayNo) (fl : Bool) : (s.aspectOrder b fl).creations = s.creations := by
  unfold State.aspectOrder; split <;> rfl
@[simp] theorem State.highList_aspectOrder (b : BayNo) (fl : Bool) : (s.aspectOrder b fl).highList = s.highList := by
  unfold State.aspectOrder; split <;> rfl
@[simp] theorem State.normalList_aspectOrder (b : BayNo) (fl : Bool) : (s.aspectOrder b fl).normalList = s.normalList := by
  unfold State.aspectOrder; split <;> rfl
@[simp] theorem State.ratioCount_aspectOrder (b : BayNo) (fl : Bool) : (s.aspectOrder b fl).ratioCount = s.ratioCount := by
  unfold State.aspectOrder; split <;> rfl
@[simp] theorem State.clock_aspectOrder (b : BayNo) (fl : Bool) : (s.aspectOrder b fl).clock = s.clock := by
  unfold State.aspectOrder; split <;> rfl
@[simp] theorem State.deadlines_aspectOrder (b : BayNo) (fl : Bool) : (s.aspectOrder b fl).deadlines = s.deadlines := by
  unfold State.aspectOrder; split <;> rfl
@[simp] theorem State.feeders_aspectOrder (b : BayNo) (fl : Bool) : (s.aspectOrder b fl).feeders = s.feeders := by
  unfold State.aspectOrder; split <;> rfl
@[simp] theorem State.effective_aspectOrder (b : BayNo) (fl : Bool) : (s.aspectOrder b fl).effective = s.effective := by
  unfold State.aspectOrder; split <;> rfl
@[simp] theorem State.grants_aspectOrder (b : BayNo) (fl : Bool) : (s.aspectOrder b fl).grants = s.grants := by
  unfold State.aspectOrder; split <;> rfl
@[simp] theorem State.sessionSeq_aspectOrder (b : BayNo) (fl : Bool) : (s.aspectOrder b fl).sessionSeq = s.sessionSeq := by
  unfold State.aspectOrder; split <;> rfl
@[simp] theorem State.starts_aspectOrder (b : BayNo) (fl : Bool) : (s.aspectOrder b fl).starts = s.starts := by
  unfold State.aspectOrder; split <;> rfl
@[simp] theorem State.curtailment_aspectOrder (b : BayNo) (fl : Bool) : (s.aspectOrder b fl).curtailment = s.curtailment := by
  unfold State.aspectOrder; split <;> rfl
@[simp] theorem State.units_aspectOrder (b : BayNo) (fl : Bool) : (s.aspectOrder b fl).units = s.units := by
  unfold State.aspectOrder; split <;> rfl
@[simp] theorem State.notices_aspectOrder (b : BayNo) (fl : Bool) : (s.aspectOrder b fl).notices = s.notices := by
  unfold State.aspectOrder; split <;> rfl
@[simp] theorem State.counters_aspectOrder (b : BayNo) (fl : Bool) : (s.aspectOrder b fl).counters = s.counters := by
  unfold State.aspectOrder; split <;> rfl
@[simp] theorem State.snapshot_aspectOrder (b : BayNo) (fl : Bool) : (s.aspectOrder b fl).snapshot = s.snapshot := by
  unfold State.aspectOrder; split <;> rfl
@[simp] theorem State.pending_aspectOrder (b : BayNo) (fl : Bool) : (s.aspectOrder b fl).pending = s.pending := by
  unfold State.aspectOrder; split <;> rfl
@[simp] theorem State.bay_aspectOrder (b : BayNo) (fl : Bool) (x : BayNo) : (s.aspectOrder b fl).bay x = s.bay x := by
  simp only [State.bay, State.bays_aspectOrder]
@[simp] theorem State.grant_aspectOrder (b : BayNo) (fl : Bool) (x : BayNo) : (s.aspectOrder b fl).grant x = s.grant x := by
  simp only [State.grant, State.grants_aspectOrder]
@[simp] theorem State.unit_aspectOrder (b : BayNo) (fl : Bool) (x : BayNo) : (s.aspectOrder b fl).unit x = s.unit x := by
  simp only [State.unit, State.units_aspectOrder]
@[simp] theorem State.slot_aspectOrder (b : BayNo) (fl : Bool) (x : SlotNo) : (s.aspectOrder b fl).slot x = s.slot x := by
  simp only [State.slot, State.slots_aspectOrder]
@[simp] theorem State.record_aspectOrder (b : BayNo) (fl : Bool) (x : SlotNo) : (s.aspectOrder b fl).record x = s.record x := by
  simp only [State.record, State.slot, State.slots_aspectOrder]
@[simp] theorem State.feeder_aspectOrder (b : BayNo) (fl : Bool) (x : FeederNo) : (s.aspectOrder b fl).feeder x = s.feeder x := by
  simp only [State.feeder, State.feeders_aspectOrder]

/-! ### freeSlot -/

@[simp] theorem State.port_freeSlot (i : SlotNo) (o : Ending) : (s.freeSlot i o).port = s.port := rfl
@[simp] theorem State.plan_freeSlot (i : SlotNo) (o : Ending) : (s.freeSlot i o).plan = s.plan := rfl
@[simp] theorem State.staged_freeSlot (i : SlotNo) (o : Ending) : (s.freeSlot i o).staged = s.staged := rfl
@[simp] theorem State.bays_freeSlot (i : SlotNo) (o : Ending) : (s.freeSlot i o).bays = s.bays := rfl
@[simp] theorem State.bookingSeq_freeSlot (i : SlotNo) (o : Ending) : (s.freeSlot i o).bookingSeq = s.bookingSeq := rfl
@[simp] theorem State.creations_freeSlot (i : SlotNo) (o : Ending) : (s.freeSlot i o).creations = s.creations := rfl
@[simp] theorem State.highList_freeSlot (i : SlotNo) (o : Ending) : (s.freeSlot i o).highList = s.highList := rfl
@[simp] theorem State.normalList_freeSlot (i : SlotNo) (o : Ending) : (s.freeSlot i o).normalList = s.normalList := rfl
@[simp] theorem State.ratioCount_freeSlot (i : SlotNo) (o : Ending) : (s.freeSlot i o).ratioCount = s.ratioCount := rfl
@[simp] theorem State.clock_freeSlot (i : SlotNo) (o : Ending) : (s.freeSlot i o).clock = s.clock := rfl
@[simp] theorem State.deadlines_freeSlot (i : SlotNo) (o : Ending) : (s.freeSlot i o).deadlines = s.deadlines := rfl
@[simp] theorem State.feeders_freeSlot (i : SlotNo) (o : Ending) : (s.freeSlot i o).feeders = s.feeders := rfl
@[simp] theorem State.effective_freeSlot (i : SlotNo) (o : Ending) : (s.freeSlot i o).effective = s.effective := rfl
@[simp] theorem State.grants_freeSlot (i : SlotNo) (o : Ending) : (s.freeSlot i o).grants = s.grants := rfl
@[simp] theorem State.sessionSeq_freeSlot (i : SlotNo) (o : Ending) : (s.freeSlot i o).sessionSeq = s.sessionSeq := rfl
@[simp] theorem State.starts_freeSlot (i : SlotNo) (o : Ending) : (s.freeSlot i o).starts = s.starts := rfl
@[simp] theorem State.curtailment_freeSlot (i : SlotNo) (o : Ending) : (s.freeSlot i o).curtailment = s.curtailment := rfl
@[simp] theorem State.lanes_freeSlot (i : SlotNo) (o : Ending) : (s.freeSlot i o).lanes = s.lanes := rfl
@[simp] theorem State.units_freeSlot (i : SlotNo) (o : Ending) : (s.freeSlot i o).units = s.units := rfl
@[simp] theorem State.counters_freeSlot (i : SlotNo) (o : Ending) : (s.freeSlot i o).counters = s.counters := rfl
@[simp] theorem State.snapshot_freeSlot (i : SlotNo) (o : Ending) : (s.freeSlot i o).snapshot = s.snapshot := rfl
@[simp] theorem State.pending_freeSlot (i : SlotNo) (o : Ending) : (s.freeSlot i o).pending = s.pending := rfl
@[simp] theorem State.bay_freeSlot (i : SlotNo) (o : Ending) (x : BayNo) : (s.freeSlot i o).bay x = s.bay x := rfl
@[simp] theorem State.grant_freeSlot (i : SlotNo) (o : Ending) (x : BayNo) : (s.freeSlot i o).grant x = s.grant x := rfl
@[simp] theorem State.unit_freeSlot (i : SlotNo) (o : Ending) (x : BayNo) : (s.freeSlot i o).unit x = s.unit x := rfl
@[simp] theorem State.feeder_freeSlot (i : SlotNo) (o : Ending) (x : FeederNo) : (s.freeSlot i o).feeder x = s.feeder x := rfl
@[simp] theorem State.lane_freeSlot (i : SlotNo) (o : Ending) (x : LaneNo) : (s.freeSlot i o).lane x = s.lane x := rfl

/-! ### takeSlot -/

@[simp] theorem State.port_takeSlot (i : SlotNo) (rest : List SlotNo) (r : Reservation) : (s.takeSlot i rest r).port = s.port := rfl
@[simp] theorem State.plan_takeSlot (i : SlotNo) (rest : List SlotNo) (r : Reservation) : (s.takeSlot i rest r).plan = s.plan := rfl
@[simp] theorem State.staged_takeSlot (i : SlotNo) (rest : List SlotNo) (r : Reservation) : (s.takeSlot i rest r).staged = s.staged := rfl
@[simp] theorem State.bays_takeSlot (i : SlotNo) (rest : List SlotNo) (r : Reservation) : (s.takeSlot i rest r).bays = s.bays := rfl
@[simp] theorem State.highList_takeSlot (i : SlotNo) (rest : List SlotNo) (r : Reservation) : (s.takeSlot i rest r).highList = s.highList := rfl
@[simp] theorem State.normalList_takeSlot (i : SlotNo) (rest : List SlotNo) (r : Reservation) : (s.takeSlot i rest r).normalList = s.normalList := rfl
@[simp] theorem State.ratioCount_takeSlot (i : SlotNo) (rest : List SlotNo) (r : Reservation) : (s.takeSlot i rest r).ratioCount = s.ratioCount := rfl
@[simp] theorem State.clock_takeSlot (i : SlotNo) (rest : List SlotNo) (r : Reservation) : (s.takeSlot i rest r).clock = s.clock := rfl
@[simp] theorem State.deadlines_takeSlot (i : SlotNo) (rest : List SlotNo) (r : Reservation) : (s.takeSlot i rest r).deadlines = s.deadlines := rfl
@[simp] theorem State.feeders_takeSlot (i : SlotNo) (rest : List SlotNo) (r : Reservation) : (s.takeSlot i rest r).feeders = s.feeders := rfl
@[simp] theorem State.effective_takeSlot (i : SlotNo) (rest : List SlotNo) (r : Reservation) : (s.takeSlot i rest r).effective = s.effective := rfl
@[simp] theorem State.grants_takeSlot (i : SlotNo) (rest : List SlotNo) (r : Reservation) : (s.takeSlot i rest r).grants = s.grants := rfl
@[simp] theorem State.sessionSeq_takeSlot (i : SlotNo) (rest : List SlotNo) (r : Reservation) : (s.takeSlot i rest r).sessionSeq = s.sessionSeq := rfl
@[simp] theorem State.starts_takeSlot (i : SlotNo) (rest : List SlotNo) (r : Reservation) : (s.takeSlot i rest r).starts = s.starts := rfl
@[simp] theorem State.curtailment_takeSlot (i : SlotNo) (rest : List SlotNo) (r : Reservation) : (s.takeSlot i rest r).curtailment = s.curtailment := rfl
@[simp] theorem State.lanes_takeSlot (i : SlotNo) (rest : List SlotNo) (r : Reservation) : (s.takeSlot i rest r).lanes = s.lanes := rfl
@[simp] theorem State.units_takeSlot (i : SlotNo) (rest : List SlotNo) (r : Reservation) : (s.takeSlot i rest r).units = s.units := rfl
@[simp] theorem State.notices_takeSlot (i : SlotNo) (rest : List SlotNo) (r : Reservation) : (s.takeSlot i rest r).notices = s.notices := rfl
@[simp] theorem State.counters_takeSlot (i : SlotNo) (rest : List SlotNo) (r : Reservation) : (s.takeSlot i rest r).counters = s.counters := rfl
@[simp] theorem State.snapshot_takeSlot (i : SlotNo) (rest : List SlotNo) (r : Reservation) : (s.takeSlot i rest r).snapshot = s.snapshot := rfl
@[simp] theorem State.pending_takeSlot (i : SlotNo) (rest : List SlotNo) (r : Reservation) : (s.takeSlot i rest r).pending = s.pending := rfl
@[simp] theorem State.bay_takeSlot (i : SlotNo) (rest : List SlotNo) (r : Reservation) (x : BayNo) : (s.takeSlot i rest r).bay x = s.bay x := rfl
@[simp] theorem State.grant_takeSlot (i : SlotNo) (rest : List SlotNo) (r : Reservation) (x : BayNo) : (s.takeSlot i rest r).grant x = s.grant x := rfl
@[simp] theorem State.unit_takeSlot (i : SlotNo) (rest : List SlotNo) (r : Reservation) (x : BayNo) : (s.takeSlot i rest r).unit x = s.unit x := rfl
@[simp] theorem State.feeder_takeSlot (i : SlotNo) (rest : List SlotNo) (r : Reservation) (x : FeederNo) : (s.takeSlot i rest r).feeder x = s.feeder x := rfl
@[simp] theorem State.lane_takeSlot (i : SlotNo) (rest : List SlotNo) (r : Reservation) (x : LaneNo) : (s.takeSlot i rest r).lane x = s.lane x := rfl

/-! ### leaveLists -/

@[simp] theorem State.port_leaveLists (i : SlotNo) : (s.leaveLists i).port = s.port := rfl
@[simp] theorem State.plan_leaveLists (i : SlotNo) : (s.leaveLists i).plan = s.plan := rfl
@[simp] theorem State.staged_leaveLists (i : SlotNo) : (s.leaveLists i).staged = s.staged := rfl
@[simp] theorem State.bays_leaveLists (i : SlotNo) : (s.leaveLists i).bays = s.bays := rfl
@[simp] theorem State.slots_leaveLists (i : SlotNo) : (s.leaveLists i).slots = s.slots := rfl
@[simp] theorem State.freeSlots_leaveLists (i : SlotNo) : (s.leaveLists i).freeSlots = s.freeSlots := rfl
@[simp] theorem State.bookingSeq_leaveLists (i : SlotNo) : (s.leaveLists i).bookingSeq = s.bookingSeq := rfl
@[simp] theorem State.creations_leaveLists (i : SlotNo) : (s.leaveLists i).creations = s.creations := rfl
@[simp] theorem State.ratioCount_leaveLists (i : SlotNo) : (s.leaveLists i).ratioCount = s.ratioCount := rfl
@[simp] theorem State.clock_leaveLists (i : SlotNo) : (s.leaveLists i).clock = s.clock := rfl
@[simp] theorem State.deadlines_leaveLists (i : SlotNo) : (s.leaveLists i).deadlines = s.deadlines := rfl
@[simp] theorem State.feeders_leaveLists (i : SlotNo) : (s.leaveLists i).feeders = s.feeders := rfl
@[simp] theorem State.effective_leaveLists (i : SlotNo) : (s.leaveLists i).effective = s.effective := rfl
@[simp] theorem State.grants_leaveLists (i : SlotNo) : (s.leaveLists i).grants = s.grants := rfl
@[simp] theorem State.sessionSeq_leaveLists (i : SlotNo) : (s.leaveLists i).sessionSeq = s.sessionSeq := rfl
@[simp] theorem State.starts_leaveLists (i : SlotNo) : (s.leaveLists i).starts = s.starts := rfl
@[simp] theorem State.curtailment_leaveLists (i : SlotNo) : (s.leaveLists i).curtailment = s.curtailment := rfl
@[simp] theorem State.lanes_leaveLists (i : SlotNo) : (s.leaveLists i).lanes = s.lanes := rfl
@[simp] theorem State.units_leaveLists (i : SlotNo) : (s.leaveLists i).units = s.units := rfl
@[simp] theorem State.notices_leaveLists (i : SlotNo) : (s.leaveLists i).notices = s.notices := rfl
@[simp] theorem State.counters_leaveLists (i : SlotNo) : (s.leaveLists i).counters = s.counters := rfl
@[simp] theorem State.snapshot_leaveLists (i : SlotNo) : (s.leaveLists i).snapshot = s.snapshot := rfl
@[simp] theorem State.pending_leaveLists (i : SlotNo) : (s.leaveLists i).pending = s.pending := rfl
@[simp] theorem State.bay_leaveLists (i : SlotNo) (x : BayNo) : (s.leaveLists i).bay x = s.bay x := rfl
@[simp] theorem State.grant_leaveLists (i : SlotNo) (x : BayNo) : (s.leaveLists i).grant x = s.grant x := rfl
@[simp] theorem State.unit_leaveLists (i : SlotNo) (x : BayNo) : (s.leaveLists i).unit x = s.unit x := rfl
@[simp] theorem State.slot_leaveLists (i : SlotNo) (x : SlotNo) : (s.leaveLists i).slot x = s.slot x := rfl
@[simp] theorem State.record_leaveLists (i : SlotNo) (x : SlotNo) : (s.leaveLists i).record x = s.record x := rfl
@[simp] theorem State.feeder_leaveLists (i : SlotNo) (x : FeederNo) : (s.leaveLists i).feeder x = s.feeder x := rfl
@[simp] theorem State.lane_leaveLists (i : SlotNo) (x : LaneNo) : (s.leaveLists i).lane x = s.lane x := rfl

/-! ### joinList -/

@[simp] theorem State.port_joinList (i : SlotNo) : (s.joinList i).port = s.port := by
  unfold State.joinList; split <;> [rfl; (split <;> rfl)]
@[simp] theorem State.plan_joinList (i : SlotNo) : (s.joinList i).plan = s.plan := by
  unfold State.joinList; split <;> [rfl; (split <;> rfl)]
@[simp] theorem State.staged_joinList (i : SlotNo) : (s.joinList i).staged = s.staged := by
  unfold State.joinList; split <;> [rfl; (split <;> rfl)]
@[simp] theorem State.bays_joinList (i : SlotNo) : (s.joinList i).bays = s.bays := by
  unfold State.joinList; split <;> [rfl; (split <;> rfl)]
@[simp] theorem State.slots_joinList (i : SlotNo) : (s.joinList i).slots = s.slots := by
  unfold State.joinList; split <;> [rfl; (split <;> rfl)]
@[simp] theorem State.freeSlots_joinList (i : SlotNo) : (s.joinList i).freeSlots = s.freeSlots := by
  unfold State.joinList; split <;> [rfl; (split <;> rfl)]
@[simp] theorem State.bookingSeq_joinList (i : SlotNo) : (s.joinList i).bookingSeq = s.bookingSeq := by
  unfold State.joinList; split <;> [rfl; (split <;> rfl)]
@[simp] theorem State.creations_joinList (i : SlotNo) : (s.joinList i).creations = s.creations := by
  unfold State.joinList; split <;> [rfl; (split <;> rfl)]
@[simp] theorem State.ratioCount_joinList (i : SlotNo) : (s.joinList i).ratioCount = s.ratioCount := by
  unfold State.joinList; split <;> [rfl; (split <;> rfl)]
@[simp] theorem State.clock_joinList (i : SlotNo) : (s.joinList i).clock = s.clock := by
  unfold State.joinList; split <;> [rfl; (split <;> rfl)]
@[simp] theorem State.deadlines_joinList (i : SlotNo) : (s.joinList i).deadlines = s.deadlines := by
  unfold State.joinList; split <;> [rfl; (split <;> rfl)]
@[simp] theorem State.feeders_joinList (i : SlotNo) : (s.joinList i).feeders = s.feeders := by
  unfold State.joinList; split <;> [rfl; (split <;> rfl)]
@[simp] theorem State.effective_joinList (i : SlotNo) : (s.joinList i).effective = s.effective := by
  unfold State.joinList; split <;> [rfl; (split <;> rfl)]
@[simp] theorem State.grants_joinList (i : SlotNo) : (s.joinList i).grants = s.grants := by
  unfold State.joinList; split <;> [rfl; (split <;> rfl)]
@[simp] theorem State.sessionSeq_joinList (i : SlotNo) : (s.joinList i).sessionSeq = s.sessionSeq := by
  unfold State.joinList; split <;> [rfl; (split <;> rfl)]
@[simp] theorem State.starts_joinList (i : SlotNo) : (s.joinList i).starts = s.starts := by
  unfold State.joinList; split <;> [rfl; (split <;> rfl)]
@[simp] theorem State.curtailment_joinList (i : SlotNo) : (s.joinList i).curtailment = s.curtailment := by
  unfold State.joinList; split <;> [rfl; (split <;> rfl)]
@[simp] theorem State.lanes_joinList (i : SlotNo) : (s.joinList i).lanes = s.lanes := by
  unfold State.joinList; split <;> [rfl; (split <;> rfl)]
@[simp] theorem State.units_joinList (i : SlotNo) : (s.joinList i).units = s.units := by
  unfold State.joinList; split <;> [rfl; (split <;> rfl)]
@[simp] theorem State.notices_joinList (i : SlotNo) : (s.joinList i).notices = s.notices := by
  unfold State.joinList; split <;> [rfl; (split <;> rfl)]
@[simp] theorem State.counters_joinList (i : SlotNo) : (s.joinList i).counters = s.counters := by
  unfold State.joinList; split <;> [rfl; (split <;> rfl)]
@[simp] theorem State.snapshot_joinList (i : SlotNo) : (s.joinList i).snapshot = s.snapshot := by
  unfold State.joinList; split <;> [rfl; (split <;> rfl)]
@[simp] theorem State.pending_joinList (i : SlotNo) : (s.joinList i).pending = s.pending := by
  unfold State.joinList; split <;> [rfl; (split <;> rfl)]
@[simp] theorem State.bay_joinList (i : SlotNo) (x : BayNo) : (s.joinList i).bay x = s.bay x := by
  simp only [State.bay, State.bays_joinList]
@[simp] theorem State.grant_joinList (i : SlotNo) (x : BayNo) : (s.joinList i).grant x = s.grant x := by
  simp only [State.grant, State.grants_joinList]
@[simp] theorem State.unit_joinList (i : SlotNo) (x : BayNo) : (s.joinList i).unit x = s.unit x := by
  simp only [State.unit, State.units_joinList]
@[simp] theorem State.slot_joinList (i : SlotNo) (x : SlotNo) : (s.joinList i).slot x = s.slot x := by
  simp only [State.slot, State.slots_joinList]
@[simp] theorem State.record_joinList (i : SlotNo) (x : SlotNo) : (s.joinList i).record x = s.record x := by
  simp only [State.record, State.slot, State.slots_joinList]
@[simp] theorem State.feeder_joinList (i : SlotNo) (x : FeederNo) : (s.joinList i).feeder x = s.feeder x := by
  simp only [State.feeder, State.feeders_joinList]
@[simp] theorem State.lane_joinList (i : SlotNo) (x : LaneNo) : (s.joinList i).lane x = s.lane x := by
  simp only [State.lane, State.lanes_joinList]

/-! ### One record read after one record changed -/

@[simp] theorem State.bay_modBay_self (k : BayNo) (f : Bay → Bay) : (s.modBay k f).bay k = f (s.bay k) := by
  simp [State.bay, State.modBay]

theorem State.bay_modBay_ne (k j : BayNo) (f : Bay → Bay) (h : j ≠ k) : (s.modBay k f).bay j = s.bay j := by
  have : k.val ≠ j.val := fun e => h (Fin.ext e.symm)
  simp [State.bay, State.modBay, this]

@[simp] theorem State.grant_modGrant_self (k : BayNo) (f : Grants → Grants) : (s.modGrant k f).grant k = f (s.grant k) := by
  simp [State.grant, State.modGrant]

theorem State.grant_modGrant_ne (k j : BayNo) (f : Grants → Grants) (h : j ≠ k) : (s.modGrant k f).grant j = s.grant j := by
  have : k.val ≠ j.val := fun e => h (Fin.ext e.symm)
  simp [State.grant, State.modGrant, this]

@[simp] theorem State.unit_modUnit_self (k : BayNo) (f : BayUnit → BayUnit) : (s.modUnit k f).unit k = f (s.unit k) := by
  simp [State.unit, State.modUnit]

theorem State.unit_modUnit_ne (k j : BayNo) (f : BayUnit → BayUnit) (h : j ≠ k) : (s.modUnit k f).unit j = s.unit j := by
  have : k.val ≠ j.val := fun e => h (Fin.ext e.symm)
  simp [State.unit, State.modUnit, this]

@[simp] theorem State.slot_modSlot_self (k : SlotNo) (f : Slot → Slot) : (s.modSlot k f).slot k = f (s.slot k) := by
  simp [State.slot, State.modSlot]

theorem State.slot_modSlot_ne (k j : SlotNo) (f : Slot → Slot) (h : j ≠ k) : (s.modSlot k f).slot j = s.slot j := by
  have : k.val ≠ j.val := fun e => h (Fin.ext e.symm)
  simp [State.slot, State.modSlot, this]

@[simp] theorem State.feeder_modFeeder_self (k : FeederNo) (f : Feeder → Feeder) : (s.modFeeder k f).feeder k = f (s.feeder k) := by
  simp [State.feeder, State.modFeeder]

theorem State.feeder_modFeeder_ne (k j : FeederNo) (f : Feeder → Feeder) (h : j ≠ k) : (s.modFeeder k f).feeder j = s.feeder j := by
  have : k.val ≠ j.val := fun e => h (Fin.ext e.symm)
  simp [State.feeder, State.modFeeder, this]

@[simp] theorem State.lane_modLane_self (k : LaneNo) (f : Lane → Lane) : (s.modLane k f).lane k = f (s.lane k) := by
  simp [State.lane, State.modLane]

theorem State.lane_modLane_ne (k j : LaneNo) (f : Lane → Lane) (h : j ≠ k) : (s.modLane k f).lane j = s.lane j := by
  have : k.val ≠ j.val := fun e => h (Fin.ext e.symm)
  simp [State.lane, State.modLane, this]

end Sys2Proof.Machine
end

