-- ==== Sys2Proof/Laws/Basics.lean ====
section
/-! SUPPORT. Lemmas over the lists and lanes of State: folds, the deadline list, the lane of a bay. -/

-- One proof after another: side by side, the package as one text takes a thread and its stack for each.
set_option Elab.async false

namespace Sys2Proof.Machine

/-- What every step of a fold keeps, the fold keeps. -/
theorem foldl_keeps {σ α : Type} {P : σ → Prop} (f : σ → α → σ) (hf : ∀ s a, P s → P (f s a)) :
    ∀ (l : List α) (s : σ), P s → P (l.foldl f s)
  | [], _, h => h
  | a :: l, s, h => foldl_keeps f hf l (f s a) (hf s a h)

@[simp] theorem laneOf_bayAt (l : LaneNo) (a : LaneAddr) : laneOf (bayAt l a) = l := by
  apply Fin.ext; simp only [laneOf, bayAt]; omega

@[simp] theorem addrOf_bayAt (l : LaneNo) (a : LaneAddr) : addrOf (bayAt l a) = a := by
  apply Fin.ext; simp only [addrOf, bayAt]; omega

@[simp] theorem bayAt_laneOf (b : BayNo) : bayAt (laneOf b) (addrOf b) = b := by
  apply Fin.ext; simp only [laneOf, addrOf, bayAt]; omega

/-! ### The deadline list -/

theorem mem_insertByDue (d e : Deadline) (ds : List Deadline) : e ∈ insertByDue d ds ↔ e = d ∨ e ∈ ds := by
  induction ds with
  | nil => simp [insertByDue]
  | cons x xs ih =>
    simp only [insertByDue]
    split
    · simp
    · simp only [List.mem_cons, ih]; tauto

theorem insertByDue_perm (d : Deadline) (ds : List Deadline) : (insertByDue d ds).Perm (d :: ds) := by
  induction ds with
  | nil => simp [insertByDue]
  | cons x xs ih =>
    simp only [insertByDue]
    split
    · exact .refl _
    · exact (ih.cons x).trans (.swap d x xs)

theorem insertByDue_sorted (d : Deadline) (ds : List Deadline) (h : ds.Pairwise fun a b => a.due ≤ b.due) :
    (insertByDue d ds).Pairwise fun a b => a.due ≤ b.due := by
  induction ds with
  | nil => simp [insertByDue]
  | cons x xs ih =>
    rw [List.pairwise_cons] at h
    simp only [insertByDue]
    split
    · rename_i hlt
      refine List.pairwise_cons.2 ⟨fun e he => ?_, List.pairwise_cons.2 h⟩
      rcases List.mem_cons.1 he with rfl | he
      · omega
      · have := h.1 e he; omega
    · rename_i hlt
      refine List.pairwise_cons.2 ⟨fun e he => ?_, ih h.2⟩
      rcases (mem_insertByDue _ _ _).1 he with rfl | he
      · omega
      · exact h.1 e he

theorem DeadlinesLawful.filter {ds : List Deadline} (h : DeadlinesLawful ds) (p : Deadline → Bool) :
    DeadlinesLawful (ds.filter p) :=
  ⟨h.1.sublist List.filter_sublist, h.2.1.sublist (List.filter_sublist.map _), fun d hd => h.2.2 d (List.mem_of_mem_filter hd)⟩

theorem DeadlinesLawful.tail {d : Deadline} {ds : List Deadline} (h : DeadlinesLawful (d :: ds)) : DeadlinesLawful ds :=
  ⟨(List.pairwise_cons.1 h.1).2, (List.nodup_cons.1 (by simpa using h.2.1)).2, fun e he => h.2.2 e (List.mem_cons_of_mem _ he)⟩

theorem DeadlinesLawful.insert {ds : List Deadline} (h : DeadlinesLawful ds) (d : Deadline) (fits : d.kindFits = true) :
    DeadlinesLawful (insertByDue d (ds.filter fun e => e.owner != d.owner)) := by
  have hf := h.filter fun e => e.owner != d.owner
  refine ⟨insertByDue_sorted d _ hf.1, ?_, fun e he => ?_⟩
  · rw [((insertByDue_perm d _).map _).nodup_iff, List.map_cons, List.nodup_cons]
    refine ⟨fun hm => ?_, hf.2.1⟩
    obtain ⟨e, he, heo⟩ := List.mem_map.1 hm
    have := (List.mem_filter.1 he).2
    simp [heo] at this
  · rcases (mem_insertByDue _ _ _).1 he with rfl | he
    · exact fits
    · exact hf.2.2 e he

end Sys2Proof.Machine
end

