-- ==== Sys2Proof/Laws/Requests.lean ====
section
/-! SUPPORT. The aspect orders of an event that changes few lamps, and what each request is, taken by its owner: the owner's event,
its aspect orders, and the reply. -/

-- One proof after another: side by side, the package as one text takes a thread and its stack for each.
set_option Elab.async false

namespace Sys2Proof.Machine

/-! ### Aspect orders -/

/-- A fold whose every step leaves the state as it is leaves it as it is. -/
theorem foldl_fixed {σ α : Type} (f : σ → α → σ) (s : σ) : ∀ l : List α, (∀ a ∈ l, f s a = s) → l.foldl f s = s
  | [], _ => rfl
  | a :: l, h => by
    rw [List.foldl_cons, h a (by simp)]
    exact foldl_fixed f s l fun x hx => h x (by simp [hx])

/-- A fold of which one step alone changes anything. -/
theorem foldl_one {σ α : Type} (f : σ → α → σ) (s t : σ) (a : α) (l : List α) (hn : l.Nodup) (ha : a ∈ l)
    (before : ∀ x ∈ l, x ≠ a → f s x = s) (after : ∀ x ∈ l, x ≠ a → f t x = t) (h : f s a = t) : l.foldl f s = t := by
  obtain ⟨l₁, l₂, rfl⟩ := List.append_of_mem ha
  have hd := List.nodup_append.1 hn
  have hc := List.nodup_cons.1 hd.2.1
  rw [List.foldl_append, List.foldl_cons,
    foldl_fixed f s l₁ fun x hx => before x (by simp [hx]) fun e => hd.2.2 x hx a (by simp) e, h]
  exact foldl_fixed f t l₂ fun x hx => after x (by simp [hx]) fun e => hc.1 (e ▸ hx)

theorem mem_allBays (b : BayNo) : b ∈ allBays := by unfold allBays; exact List.mem_finRange b

theorem nodup_allBays : allBays.Nodup := by unfold allBays; exact List.nodup_finRange 512

theorem mem_allSlots (i : SlotNo) : i ∈ allSlots := by unfold allSlots; exact List.mem_finRange i

theorem nodup_allSlots : allSlots.Nodup := by unfold allSlots; exact List.nodup_finRange 1024

theorem mem_allFeeders (f : FeederNo) : f ∈ allFeeders := by unfold allFeeders; exact List.mem_finRange f

theorem nodup_allFeeders : allFeeders.Nodup := by unfold allFeeders; exact List.nodup_finRange 16

/-- No planned bay's lamp differs: no aspect order. -/
theorem aspectOrders_same (s t : State) (h : ∀ b, (t.bay b).place.isSome → (t.bay b).aspect = (s.bay b).aspect) :
    State.aspectOrders s t = t := by
  refine foldl_fixed _ _ _ fun b _ => ?_
  by_cases hp : (t.bay b).place.isSome
  · simp [hp, h b hp]
  · simp [hp]

/-- One planned bay's lamp differs: one aspect order. -/
theorem aspectOrders_one (s t : State) (b : BayNo) (h : ∀ x, x ≠ b → (t.bay x).aspect = (s.bay x).aspect) :
    State.aspectOrders s t =
      if (t.bay b).place.isSome && (t.bay b).aspect != (s.bay b).aspect then t.aspectOrder b false else t := by
  refine foldl_one _ _ _ b _ nodup_allBays (mem_allBays b) (fun x _ hx => ?_) (fun x _ hx => ?_) rfl
  · simp [h x hx]
  · split <;> simp [h x hx]

/-- What no change of a slot changes, clearing marks leaves as it is. -/
theorem clearMarks_field {α : Type} (g : State → α) (hg : ∀ s i f, g (State.modSlot s i f) = g s) :
    ∀ (l : List SlotNo) (s : State), g (l.foldl (fun t i => t.modSlot i fun x => { x with mark := false }) s) = g s
  | [], _ => rfl
  | i :: l, s => by
    rw [List.foldl_cons, clearMarks_field g hg l, hg]

/-! ### A request taken by its owner -/

theorem State.serve_takes (s : State) (c : Instr) (event : State → State × Answer) (h : s.takes c) :
    s.serve c event = (event s).1.answered c (event s).2.status (event s).2.body := by
  unfold State.takes at h
  simp only [State.serve, h, if_true]
  rfl

/-- An owner handed nothing does nothing (R180). -/
theorem State.serve_other (s : State) (c : Instr) (event : State → State × Answer) (h : s.port.request ≠ some c) :
    s.serve c event = s := by
  simp only [State.serve, h, if_false]

/-- A request's owner has taken it and its lamps are settled. -/
def State.taken (s : State) (c : Instr) (e : State × Answer) : Host.Outcome State Fault Refusal :=
  .next ((State.aspectOrders s e.1).answered c e.2.status e.2.body)

theorem settled_fst (event : State → State × Answer) (s : State) :
    (settled event s).1 = State.aspectOrders s (event s).1 := rfl

theorem settled_snd (event : State → State × Answer) (s : State) : (settled event s).2 = (event s).2 := by
  unfold settled; rcases event s with ⟨t, a⟩; rfl

theorem exec_settled (s : State) (c : Instr) (event : State → State × Answer) (h : s.takes c) :
    (Host.Outcome.next (s.serve c (settled event)) : Host.Outcome State Fault Refusal) = s.taken c (event s) := by
  rw [State.serve_takes s c _ h, State.taken, settled_fst, settled_snd]

theorem exec_plain (s : State) (c : Instr) (event : State → State × Answer) (h : s.takes c) :
    (Host.Outcome.next (s.serve c event) : Host.Outcome State Fault Refusal) =
      .next ((event s).1.answered c (event s).2.status (event s).2.body) := by
  rw [State.serve_takes s c _ h]

variable {s : State}

theorem exec_book {q : BookReq} (h : s.takes (.book q)) : exec (.book q) s = s.taken (.book q) (s.book q) :=
  exec_settled s _ _ h

theorem exec_amend {q : AmendReq} (h : s.takes (.amend q)) : exec (.amend q) s = s.taken (.amend q) (s.amend q) :=
  exec_settled s _ _ h

theorem exec_cancel (t : BitVec 16) (h : s.takes (.cancel t)) : exec (.cancel t) s = s.taken (.cancel t) (s.cancel t) :=
  exec_settled s (.cancel t) _ h

theorem exec_release (t : BitVec 16) (h : s.takes (.release t)) : exec (.release t) s = s.taken (.release t) (s.release t) :=
  exec_settled s (.release t) _ h

theorem exec_queryReservation (t : BitVec 16) (h : s.takes (.queryReservation t)) : exec (.queryReservation t) s =
    .next (s.answered (.queryReservation t) (s.queryReservation t).status (s.queryReservation t).body) :=
  exec_plain s (.queryReservation t) _ h

theorem exec_findCredential {c : Credential} (h : s.takes (.findCredential c)) : exec (.findCredential c) s =
    .next (s.answered (.findCredential c) (s.findCredential c).status (s.findCredential c).body) :=
  exec_plain s _ _ h

theorem exec_listChanges (h : s.takes .listChanges) : exec .listChanges s =
    .next (s.listChanges.1.answered .listChanges s.listChanges.2.status s.listChanges.2.body) :=
  exec_plain s .listChanges _ h

theorem atBay_of {n : BitVec 16} {b : BayNo} (hn : n.toNat = b.val) (event : BayNo → State → State × Answer) :
    atBay n event = event b := by
  funext s
  have : bayNo? n = some b := by
    unfold bayNo?; rw [dif_pos (by omega)]; exact congrArg some (Fin.ext hn)
  simp [atBay, this]

theorem exec_queryBay {n : BitVec 16} {b : BayNo} (hn : n.toNat = b.val) (h : s.takes (.queryBay n)) :
    exec (.queryBay n) s = .next (s.answered (.queryBay n) .ok (s.bayRecord b)) := by
  show Host.Outcome.next _ = _
  rw [atBay_of hn, State.serve_takes s _ _ h]

theorem exec_serviceOut {n : BitVec 16} {b : BayNo} (hn : n.toNat = b.val) (h : s.takes (.setBayServiceOut n)) :
    exec (.setBayServiceOut n) s = s.taken (.setBayServiceOut n) (State.serviceOut b s) := by
  show Host.Outcome.next _ = _
  rw [atBay_of hn]; exact exec_settled s _ _ h

theorem exec_serviceIn {n : BitVec 16} {b : BayNo} (hn : n.toNat = b.val) (h : s.takes (.setBayServiceIn n)) :
    exec (.setBayServiceIn n) s =
      .next ((State.serviceIn b s).1.answered (.setBayServiceIn n) (State.serviceIn b s).2.status
        (State.serviceIn b s).2.body) := by
  show Host.Outcome.next _ = _
  rw [atBay_of hn, State.serve_takes s _ _ h]

theorem exec_clearStranded {n : BitVec 16} {b : BayNo} (hn : n.toNat = b.val) (h : s.takes (.clearStranded n)) :
    exec (.clearStranded n) s = s.taken (.clearStranded n) (State.clearStranded b s) := by
  show Host.Outcome.next _ = _
  rw [atBay_of hn]; exact exec_settled s _ _ h

theorem exec_loadPlanLast (body : List Byte) (h : s.takes (.loadPlanLast body)) : exec (.loadPlanLast body) s =
    .next ((s.lastSegment body).1.answered (.loadPlanLast body) (s.lastSegment body).2.status (s.lastSegment body).2.body) :=
  exec_plain s (.loadPlanLast body) _ h

theorem exec_loadPlanOnly (body : List Byte) (h : s.takes (.loadPlanOnly body)) : exec (.loadPlanOnly body) s =
    .next ((s.onlySegment body).1.answered (.loadPlanOnly body) (s.onlySegment body).2.status (s.onlySegment body).2.body) :=
  exec_plain s (.loadPlanOnly body) _ h

theorem exec_setClock (v : BitVec 32) (h : s.takes (.setClock v)) : exec (.setClock v) s = s.taken (.setClock v) (s.setClock v.toNat) :=
  exec_settled s (.setClock v) _ h

theorem exec_curtail {a : BitVec 16} {d : BitVec 32} (h : s.takes (.curtail a d)) :
    exec (.curtail a d) s = s.taken (.curtail a d) (State.curtail a.toNat d.toNat s) :=
  exec_settled s _ _ h

theorem exec_curtailAmountZero (d : BitVec 32) (h : s.takes (.curtailAmountZero d)) :
    exec (.curtailAmountZero d) s = s.taken (.curtailAmountZero d) (State.curtail 0 d.toNat s) :=
  exec_settled s (.curtailAmountZero d) _ h

theorem exec_reset (h : s.takes .reset) : exec .reset s = s.taken .reset (s.softReset, ⟨.ok, []⟩) :=
  exec_settled s .reset _ h

end Sys2Proof.Machine
end

