-- ==== Sys2Proof/Laws/Codec.lean ====
section
/-! SUPPORT. Bytes and fields read back: `le` against `unle`, the fields of concatenated bytes, and the parts of a booking port
frame. -/

-- One proof after another: side by side, the package as one text takes a thread and its stack for each.
set_option Elab.async false

namespace Sys2Proof.Machine

@[simp] theorem length_le (n v : Nat) : (le n v).length = n := by
  induction n generalizing v with
  | zero => rfl
  | succ n ih => simp [le, ih]

@[simp] theorem unle_le (n v : Nat) : unle (le n v) = v % 256 ^ n := by
  induction n generalizing v with
  | zero => simp [le, unle, Nat.mod_one]
  | succ n ih =>
    simp only [le, unle, ih, BitVec.toNat_ofNat]
    have : v % 256 ^ (n + 1) = v % 256 + 256 * (v / 256 % 256 ^ n) := by
      rw [pow_succ, mul_comm, Nat.mod_mul]
    simpa using this.symm

theorem take_append_of_length {α : Type} (xs ys : List α) (n : Nat) (h : xs.length = n) : (xs ++ ys).take n = xs := by
  subst h; simp

theorem drop_append_of_length {α : Type} (xs ys : List α) (n : Nat) (h : xs.length = n) : (xs ++ ys).drop n = ys := by
  subst h; simp

/-- The field at the head of a body. -/
theorem fieldAt_head (n v : Nat) (rest : List Byte) : fieldAt (le n v ++ rest) 0 n = v % 256 ^ n := by
  rw [fieldAt, List.drop_zero, take_append_of_length _ _ _ (length_le n v), unle_le]

/-- A field behind other bytes. -/
theorem fieldAt_behind (xs rest : List Byte) (k n m : Nat) (h : m = xs.length + k) : fieldAt (xs ++ rest) m n = fieldAt rest k n := by
  subst h; simp only [fieldAt, List.drop_append, List.drop_eq_nil_of_le (Nat.le_add_right _ _), Nat.add_sub_cancel_left, List.nil_append]

/-- A field behind the first field. -/
theorem fieldAt_next (m v p n : Nat) (rest : List Byte) (h : m ≤ p) : fieldAt (le m v ++ rest) p n = fieldAt rest (p - m) n :=
  fieldAt_behind _ _ _ _ _ (by simp; omega)

/-- A bit field carried in whole bytes. -/
theorem ofNat_mod_toNat {w : Nat} (x : BitVec w) (m : Nat) (h : 256 ^ m = 2 ^ w) : BitVec.ofNat w (x.toNat % 256 ^ m) = x := by
  rw [h, Nat.mod_eq_of_lt x.isLt]; simp

/-- A field that is the whole body. -/
theorem fieldAt_whole (n v : Nat) : fieldAt (le n v) 0 n = v % 256 ^ n := by
  simpa using fieldAt_head n v []

theorem foldl_byteSum (bs : List Byte) (a : Byte) : bs.foldl (· + ·) a = a + byteSum bs := by
  induction bs generalizing a with
  | nil => simp [byteSum]
  | cons b bs ih => simp only [byteSum, List.foldl_cons]; rw [ih, ih (0 + b)]; simp [BitVec.add_assoc]

theorem byteSum_append (xs ys : List Byte) : byteSum (xs ++ ys) = byteSum xs + byteSum ys := by
  rw [byteSum, List.foldl_append, foldl_byteSum]; rfl

/-- The modulo-256 sum as a sum of values. -/
theorem byteSum_toNat (bs : List Byte) : (byteSum bs).toNat = (bs.map (·.toNat)).sum % 256 := by
  induction bs with
  | nil => rfl
  | cons b bs ih =>
    rw [show b :: bs = [b] ++ bs from rfl, byteSum_append, BitVec.toNat_add, ih]
    simp [byteSum]

@[simp] theorem byteSum_portFrame (a b : Byte) (body : List Byte) : byteSum (portFrame a b body) = 0 := by
  simp only [portFrame, byteSum_append]
  rw [show byteSum [-(byteSum (a :: b :: (le 2 body.length ++ body)))] = -(byteSum (a :: b :: (le 2 body.length ++ body))) by
    simp [byteSum]]
  exact BitVec.add_right_neg _

@[simp] theorem length_portFrame (a b : Byte) (body : List Byte) : (portFrame a b body).length = body.length + 5 := by
  simp [portFrame]; omega

theorem portFrame_code (a b : Byte) (body : List Byte) : fieldAt (portFrame a b body) 0 1 = a.toNat := by
  simp [portFrame, fieldAt, unle]

theorem portFrame_part (a b : Byte) (body : List Byte) : fieldAt (portFrame a b body) 1 1 = b.toNat := by
  simp [portFrame, fieldAt, unle]

theorem portFrame_length (a b : Byte) (body : List Byte) (h : body.length < 65536) :
    fieldAt (portFrame a b body) 2 2 = body.length := by
  simp [portFrame, fieldAt, le, unle]; omega

theorem portFrame_body (a b : Byte) (body : List Byte) : ((portFrame a b body).drop 4).take body.length = body := by
  simp [portFrame, le]

/-- A frame of the port's shape passes checks 2 to 5: its code, its part and its body are judged. -/
theorem judgeFrame_portFrame (s : State) (k part : Nat) (body : List Byte) (hk : k < 256) (hp : part ≤ 3)
    (hl : body.length ≤ 1016) :
    s.judgeFrame (portFrame (BitVec.ofNat 8 k) (BitVec.ofNat 8 part) body) =
      if (formLength k).isNone then .answer .unknownRequest []
      else if k ≠ 0x30 ∧ part ≠ 0 then .answer .segmentOrder [] else s.judgeBody k part body := by
  have h1 : (BitVec.ofNat 8 k).toNat = k := by simpa using hk
  have h2 : (BitVec.ofNat 8 part).toNat = part := by simp; omega
  have h3 : ¬(3 < part) := by omega
  have h4 : ¬(Config.maxBodyBytes < body.length) := by simpa [Config.maxBodyBytes] using hl
  have h5 : ¬(body.length + 5 < 5) := by omega
  simp only [State.judgeFrame, byteSum_portFrame, length_portFrame, portFrame_code, portFrame_part,
    portFrame_length _ _ _ (show body.length < 65536 by omega), portFrame_body, h1, h2, h3, h4, h5, ne_eq, not_true_eq_false,
    or_self, if_false]

/-! ### Requests read back (R194) -/

theorem readBook_requestBody (q : BookReq) : readBook (requestBody (.book q)) = q := by
  rcases q with ⟨a, b, c, d, e, f, g, h, i, j, k⟩
  simp only [readBook, requestBody, List.append_assoc]
  congr 1
  all_goals
    simp only [fieldAt_next, fieldAt_head, fieldAt_whole, Nat.reduceLeDiff, Nat.reduceSub]
    exact ofNat_mod_toNat _ _ (by norm_num)

theorem readAmend_requestBody (q : AmendReq) : readAmend (requestBody (.amend q)) = q := by
  rcases q with ⟨a, b, c, d, e, f, g, h, i⟩
  simp only [readAmend, requestBody, List.append_assoc]
  congr 1
  all_goals
    simp only [fieldAt_next, fieldAt_head, fieldAt_whole, Nat.reduceLeDiff, Nat.reduceSub]
    exact ofNat_mod_toNat _ _ (by norm_num)

/-- A request's body reads back as the request. -/
theorem readRequest_requestBody (c : Instr) (k : Nat) (hk : requestCode c = some k) (hc : ∀ a d, c = .curtail a d → a ≠ 0) :
    readRequest k (requestPart c) (requestBody c) = some c := by
  cases c with
  | book q => cases hk; exact congrArg (fun x => some (Instr.book x)) (readBook_requestBody q)
  | amend q => cases hk; exact congrArg (fun x => some (Instr.amend x)) (readAmend_requestBody q)
  | cancel t => cases hk; show some (Instr.cancel _) = _; rw [requestBody, fieldAt_whole, ofNat_mod_toNat _ _ (by norm_num)]
  | release t => cases hk; show some (Instr.release _) = _; rw [requestBody, fieldAt_whole, ofNat_mod_toNat _ _ (by norm_num)]
  | queryReservation t =>
    cases hk; show some (Instr.queryReservation _) = _; rw [requestBody, fieldAt_whole, ofNat_mod_toNat _ _ (by norm_num)]
  | findCredential t =>
    cases hk; show some (Instr.findCredential _) = _; rw [requestBody, fieldAt_whole, ofNat_mod_toNat _ _ (by norm_num)]
  | queryBay t => cases hk; show some (Instr.queryBay _) = _; rw [requestBody, fieldAt_whole, ofNat_mod_toNat _ _ (by norm_num)]
  | setBayServiceOut t =>
    cases hk; show some (ite _ _ _) = _
    rw [requestBody, fieldAt_head, fieldAt_next _ _ _ _ _ (by norm_num), fieldAt_whole, ofNat_mod_toNat _ _ (by norm_num)]; rfl
  | setBayServiceIn t =>
    cases hk; show some (ite _ _ _) = _
    rw [requestBody, fieldAt_head, fieldAt_next _ _ _ _ _ (by norm_num), fieldAt_whole, ofNat_mod_toNat _ _ (by norm_num)]; rfl
  | clearStranded t =>
    cases hk; show some (Instr.clearStranded _) = _; rw [requestBody, fieldAt_whole, ofNat_mod_toNat _ _ (by norm_num)]
  | queryFeeder t =>
    cases hk; show some (Instr.queryFeeder _) = _; rw [requestBody, fieldAt_whole, ofNat_mod_toNat _ _ (by norm_num)]
  | curtail a d =>
    cases hk; show some (ite _ _ _) = _
    rw [requestBody, fieldAt_head, fieldAt_next _ _ _ _ _ (by norm_num), fieldAt_whole, ofNat_mod_toNat _ _ (by norm_num),
      ofNat_mod_toNat _ _ (by norm_num), if_neg (hc a d rfl)]
  | curtailAmountZero d =>
    cases hk; show some (ite _ _ _) = _
    rw [requestBody, fieldAt_head, fieldAt_next _ _ _ _ _ (by norm_num), fieldAt_whole, ofNat_mod_toNat _ _ (by norm_num)]; rfl
  | setClock t => cases hk; show some (Instr.setClock _) = _; rw [requestBody, fieldAt_whole, ofNat_mod_toNat _ _ (by norm_num)]
  | setNoticeMask t =>
    cases hk; show some (Instr.setNoticeMask _) = _; rw [requestBody, fieldAt_whole, ofNat_mod_toNat _ _ (by norm_num)]
  | setChangeThreshold t =>
    cases hk; show some (Instr.setChangeThreshold _) = _; rw [requestBody, fieldAt_whole, ofNat_mod_toNat _ _ (by norm_num)]
  | snapshotCounters t =>
    cases hk; show some (Instr.snapshotCounters _) = _; rw [requestBody, fieldAt_whole, ofNat_mod_toNat _ _ (by norm_num)]
  | listChanges | loadPlanFirst _ | loadPlanMiddle _ | loadPlanLast _ | loadPlanOnly _ | readClock | readNotices | readCounters
  | reset => cases hk; rfl
  | _ => cases hk

/-- A request's code, part and body have the form its code has (R178, R184). -/
theorem requestForm (c : Instr) (k : Nat) (hk : requestCode c = some k) :
    k < 256 ∧ requestPart c ≤ 3 ∧ (k ≠ 0x30 → requestPart c = 0) ∧
      (formLength k = some (some (requestBody c).length) ∨ k = 0x30 ∧ formLength k = some none) := by
  cases c <;> first
    | (cases hk; done)
    | (cases hk; refine ⟨by norm_num, by simp [requestPart], by simp [requestPart], ?_⟩
       first
         | exact Or.inr ⟨rfl, rfl⟩
         | exact Or.inl (by simp [requestBody, formLength]))

/-- A well-formed request's body fits a frame. -/
theorem requestBody_fits (c : Instr) (h : c.wellFormed = true) : (requestBody c).length ≤ 1016 := by
  cases c <;> simp [requestBody, Instr.wellFormed, Config.maxBodyBytes] at * <;> exact of_decide_eq_true h

end Sys2Proof.Machine
end

