-- ==== Sys2Proof/Laws/Keeps.lean ====
section
/-! SUPPORT. What a step can do to a state, said once. `Keeps P` lists the leaf updates every rule of the machine is made of, each
with what it leaves lawful; a property closed under them is kept by every operation, event and command. -/

-- One proof after another: side by side, the package as one text takes a thread and its stack for each.
set_option Elab.async false

namespace Sys2Proof.Machine

/-- `P` is closed under the leaf updates that events on the lanes and expiries of records and bays are composed of. -/
structure KeepsLive (P : State → Prop) : Prop where
  modBay : ∀ s b f, P s → ((s.bay b).Lawful → (f (s.bay b)).Lawful) → P (s.modBay b f)
  modGrant : ∀ s b f, P s → P (s.modGrant b f)
  modUnit : ∀ s b f, P s → ((s.unit b).Lawful → (f (s.unit b)).Lawful) → P (s.modUnit b f)
  modFeeder : ∀ s f g, P s → ((s.feeder f).Lawful → (g (s.feeder f)).Lawful) → P (s.modFeeder f g)
  modLane : ∀ s l f, P s → ((s.lane l).Lawful l → (f (s.lane l)).Lawful l) → P (s.modLane l f)
  modRecord : ∀ s i f, P s → P (s.modRecord i f)
  freeSlot : ∀ s i o, P s → (s.record i).isSome = true → P (s.freeSlot i o)
  takeSlot : ∀ s i rest r, P s → s.freeSlots = i :: rest → P (s.takeSlot i rest r)
  setMark : ∀ s i, P s → P (s.setMark i)
  lists : ∀ (s : State) (h n : List SlotNo), P s → P { s with highList := h, normalList := n }
  ratioCount : ∀ (s : State) (v : Nat), P s → (s.ratioCount ≤ 8 → v ≤ 8) → P { s with ratioCount := v }
  deadlines : ∀ (s : State) (ds : List Deadline), P s → (DeadlinesLawful s.deadlines → DeadlinesLawful ds) →
    P { s with deadlines := ds }
  effective : ∀ (s : State) (e : Nat), P s → P { s with effective := e }
  sessions : ∀ (s : State) (n : Nat), P s → P { s with sessionSeq := satAdd Config.max32 s.sessionSeq 1, starts := n }
  raise : ∀ (s : State) (f : Notice), P s → f ≠ .changes → P (s.raise f)
  bump : ∀ (s : State) (c : Counter), P s → P (s.bump c)

/-- `P` is closed, besides, under the end of a curtailment: what all expiries are composed of. -/
structure KeepsExpiry (P : State → Prop) : Prop extends KeepsLive P where
  curtailment : ∀ (s : State) (c : Nat), P s → P { s with curtailment := c }

/-- `P` is closed under the leaf updates that the effects of all commands are composed of. -/
structure Keeps (P : State → Prop) : Prop extends KeepsExpiry P where
  remap : ∀ (s : State) (g : Reservation → Reservation) (v : Nat), P s → v = s.ratioCount ∨ v = 0 →
    P { s with slots := s.slots.map fun x => { x with record := x.record.map g }, ratioCount := v }
  clearMarks : ∀ (s : State) (listed : List SlotNo), P s →
    P (listed.foldl (fun t i => t.modSlot i fun x => { x with mark := false }) s).evaluateChanges
  clock : ∀ (s : State) (v : Nat), P s → (s.clock ≤ Config.max32 → s.clock ≤ v ∧ v ≤ Config.max32) → P { s with clock := v }
  resetNotices : ∀ (s : State), P s →
    P { s with notices := { s.notices with status := 0 }.drive }.evaluateChanges
  taken : ∀ (s : State), P s →
    P { s with notices := { s.notices with status := s.notices.status &&& Notice.changes.word }.drive }
  masked : ∀ (s : State) (m : BitVec 6), P s → P { s with notices := { s.notices with mask := m }.drive }
  threshold : ∀ (s : State) (t : Nat), P s → (s.port.Lawful → 1 ≤ t ∧ t ≤ 64) →
    P { s with notices := { s.notices with threshold := t } }.evaluateChanges
  port : ∀ (s : State) (p : Port), P s → (s.port.Lawful → p.Lawful) → P { s with port := p }
  staged : ∀ (s : State) (x : List Byte), P s → P { s with staged := x }

namespace KeepsLive

variable {P : State → Prop} (k : KeepsLive P)
include k

/-! ### Ops and Flags -/

theorem enter (s : State) (b : BayNo) (st : BayState) (hs : st ≠ .outOfService) (h : P s) : P (s.enter b st) :=
  k.modBay _ _ _ h fun _ => ⟨rfl, by cases st <;> simp_all [Bay.enter]⟩

theorem takeOut (s : State) (b : BayNo) (r : Reason) (h : P s) : P (s.takeOut b r) :=
  k.modBay _ _ _ h fun _ => ⟨rfl, rfl⟩

/-- A change of a bay's record that touches neither its state nor its reason nor its aspect. -/
theorem bayData (s : State) (b : BayNo) (f : Bay → Bay) (h : P s) (ha : ∀ x, (f x).aspect = x.aspect := by intro; rfl)
    (hs : ∀ x, (f x).state = x.state := by intro; rfl) (hr : ∀ x, (f x).reason = x.reason := by intro; rfl) : P (s.modBay b f) :=
  k.modBay _ _ _ h fun hl => ⟨by rw [ha, hs]; exact hl.1, by rw [hr, hs]; exact hl.2⟩

theorem modFeederOf (s : State) (b : BayNo) (g : Feeder → Feeder) (h : P s) (hm : ∀ x, (g x).monitor = x.monitor := by intro; rfl) :
    P (s.modFeederOf b g) := by
  unfold State.modFeederOf
  split
  · exact k.modFeeder _ _ _ h fun hl m hm' => hl m (by rw [← hm]; exact hm')
  · exact h

theorem dropDeadline (s : State) (o : Owner) (h : P s) : P (s.dropDeadline o) :=
  k.deadlines _ _ h fun hl => hl.filter _

theorem setDeadline (s : State) (kd : DeadlineKind) (o : Owner) (due : Nat) (h : P s)
    (fits : (Deadline.mk kd o due).kindFits = true) : P (s.setDeadline kd o due) :=
  k.deadlines _ _ h fun hl => hl.insert ⟨kd, o, due⟩ fits

theorem startDeadline (s : State) (kd : DeadlineKind) (o : Owner) (n : Nat) (h : P s)
    (fits : ∀ due, (Deadline.mk kd o due).kindFits = true) : P (s.startDeadline kd o n) :=
  k.setDeadline _ _ _ _ h (fits _)

/-! ### Orders -/

omit k in
theorem queueAspect_mem (b : BayNo) (fl : Bool) (q : List Entry) (e : Entry) (he : e ∈ queueAspect b fl q) :
    e.bay = b ∨ ∃ e' ∈ q, e'.bay = e.bay := by
  have hflash : ∀ (q : List Entry), e ∈ flashFirst b q → ∃ e' ∈ q, e'.bay = e.bay := by
    intro q
    induction q with
    | nil => simp [flashFirst]
    | cons x xs ih =>
      simp only [flashFirst]
      split
      · intro hm
        rcases List.mem_cons.1 hm with rfl | hm
        · exact ⟨x, by simp, rfl⟩
        · exact ⟨e, by simp [hm], rfl⟩
      · intro hm
        rcases List.mem_cons.1 hm with rfl | hm
        · exact ⟨e, by simp, rfl⟩
        · obtain ⟨e', h1, h2⟩ := ih hm; exact ⟨e', by simp [h1], h2⟩
  unfold queueAspect at he
  split at he
  · split at he
    · exact .inr (hflash q he)
    · exact .inr ⟨e, he, rfl⟩
  · rcases List.mem_append.1 he with he | he
    · exact .inr ⟨e, he, rfl⟩
    · simp only [List.mem_singleton] at he; subst he; exact .inl rfl

theorem aspectOrder (s : State) (b : BayNo) (fl : Bool) (h : P s) : P (s.aspectOrder b fl) := by
  unfold State.aspectOrder
  split
  · refine k.modLane _ _ _ h fun hl => ⟨hl.1, fun e he => ?_, hl.2.2⟩
    rcases queueAspect_mem _ _ _ e he with he | ⟨e', he', hb⟩
    · rw [he]
    · rw [← hb]; exact hl.2.1 e' he'
  · exact h

theorem aspectOrders (before s : State) (h : P s) : P (State.aspectOrders before s) :=
  foldl_keeps _ (fun t b ht => by split <;> [exact k.aspectOrder _ _ _ ht; exact ht]) _ _ h

theorem handGrant (s : State) (b : BayNo) (v : Nat) (fl : OrderFlag) (h : P s) : P (s.handGrant b v fl) := by
  unfold State.handGrant
  dsimp only
  refine k.modLane _ _ _ (k.modGrant _ _ _ h) fun hl => ⟨hl.1, fun e he => ?_, hl.2.2⟩
  rcases List.mem_append.1 he with he | he
  · exact hl.2.1 e (List.mem_of_mem_filter he)
  · simp only [List.mem_singleton] at he; subst he; rfl

theorem makeStop (s : State) (b : BayNo) (h : P s) : P (s.makeStop b) := by
  unfold State.makeStop
  split
  · exact k.handGrant _ _ _ _ h
  · exact k.modGrant _ _ _ h

theorem releaseIncrease (s : State) (b : BayNo) (h : P s) : P (s.releaseIncrease b) := by
  unfold State.releaseIncrease
  split
  · exact h
  · split
    · exact k.handGrant _ _ _ _ (k.modGrant _ _ _ h)
    · exact k.modGrant _ _ _ (k.modGrant _ _ _ h)

theorem testGate (s : State) (f : FeederNo) (h : P s) : P (s.testGate f) := by
  unfold State.testGate
  split
  · exact foldl_keeps _ (fun t b ht => by split <;> [exact k.releaseIncrease _ _ ht; exact ht]) _ _ h
  · exact h

theorem testGateOf (s : State) (b : BayNo) (h : P s) : P (s.testGateOf b) := by
  unfold State.testGateOf
  split
  · exact k.testGate _ _ h
  · exact h

theorem settlePending (s : State) (b : BayNo) (h : P s) : P (s.settlePending b) := by
  unfold State.settlePending
  split
  · exact h
  · have h1 := k.modGrant s b (fun g => { g with pending := none }) h
    dsimp only
    split
    · exact k.handGrant _ _ _ _ h1
    · split
      · split <;> [exact k.handGrant _ _ _ _ h1; exact h1]
      · split <;> [exact k.handGrant _ _ _ _ h1; exact k.modGrant _ _ _ h1]

theorem acknowledge (s : State) (b : BayNo) (h : P s) : P (s.acknowledge b) := by
  unfold State.acknowledge
  split
  · exact h
  · exact k.testGateOf _ _ (k.settlePending _ _ (k.modGrant _ _ _ h))

theorem strand (s : State) (b : BayNo) (v : Nat) (h : P s) : P (s.strand b v) :=
  k.modFeederOf _ _ _ (k.modGrant _ _ _ h)

theorem clearStrandedGrant (s : State) (b : BayNo) (h : P s) : P (s.clearStrandedGrant b) :=
  k.modFeederOf _ _ _ (k.modGrant _ _ _ h)

/-! ### Allocation -/

theorem writeBudgets (s : State) (h : P s) : P s.writeBudgets :=
  foldl_keeps _ (fun _ _ ht => k.modFeeder _ _ _ ht fun hl m hm => hl m hm) _ _ (k.effective _ _ h)

theorem writeTarget (s : State) (x : Session) (h : P s) : P (s.writeTarget x) := by
  have h1 := k.modGrant s x.bay (fun g => { g with target := x.grant }) h
  unfold State.writeTarget
  dsimp only
  split
  · have h2 := k.bayData _ x.bay (fun y => { y with starved := true }) h1
    split <;> [exact h2; exact k.bump _ _ h2]
  · exact k.bayData _ _ _ h1

theorem clearTarget (s : State) (b : BayNo) (h : P s) : P (s.clearTarget b) :=
  k.bayData _ _ _ (k.modGrant _ _ _ h)

theorem writeTargets (s : State) (h : P s) : P s.writeTargets :=
  foldl_keeps _ (fun _ _ ht => foldl_keeps _ (fun _ _ hu => k.writeTarget _ _ hu) _ _ ht) _ _
    (foldl_keeps _ (fun _ _ ht => by split <;> [exact ht; exact k.clearTarget _ _ ht]) _ _ h)

theorem settleTarget (s : State) (b : BayNo) (h : P s) : P (s.settleTarget b) := by
  unfold State.settleTarget
  dsimp only
  split
  · split <;> exact k.modGrant _ _ _ h
  · split
    · exact k.handGrant _ _ _ _ h
    · split
      · split <;> [exact h; exact k.handGrant _ _ _ _ h]
      · exact k.modGrant _ _ _ h

theorem settleTargets (s : State) (h : P s) : P s.settleTargets := by
  refine foldl_keeps _ (fun _ _ ht => k.testGate _ _ ht) _ _ ?_
  refine foldl_keeps _ (fun _ _ ht => by split <;> [exact k.settleTarget _ _ ht; exact ht]) _ _ ?_
  exact foldl_keeps _ (fun _ _ ht => by split <;> [exact k.modGrant _ _ _ ht; exact ht]) _ _ h

theorem allocationRun (s : State) (h : P s) : P s.allocationRun :=
  k.settleTargets _ (k.writeTargets _ (k.writeBudgets _ h))

theorem takeRun (e : Ev) (h : P e.1) : P (takeRun e) := by
  unfold Machine.takeRun
  split <;> [exact k.allocationRun _ h; exact h]

/-! ### Reservations -/

theorem bind (s : State) (i : SlotNo) (b : BayNo) (h : P s) : P (s.bind i b) :=
  k.modFeederOf _ _ _ (k.bayData _ _ _ (k.modRecord _ _ _ h))

theorem unbind (s : State) (i : SlotNo) (h : P s) : P (s.unbind i) := by
  unfold State.unbind
  split
  · exact h
  · exact k.modFeederOf _ _ _ (k.bayData _ _ _ (k.modRecord _ _ _ h))

theorem joinList (s : State) (i : SlotNo) (h : P s) : P (s.joinList i) := by
  unfold State.joinList
  split
  · exact h
  · split <;> exact k.lists _ _ _ h

theorem leaveLists (s : State) (i : SlotNo) (h : P s) : P (s.leaveLists i) := k.lists _ _ _ h

theorem startWaiting (s : State) (i : SlotNo) (w : Nat) (h : P s) : P (s.startWaiting i w) :=
  k.startDeadline _ _ _ _ (k.joinList _ _ (k.modRecord _ _ _ h)) fun _ => rfl

omit k in
theorem record_modRecord_isSome (s : State) (i j : SlotNo) (f : Reservation → Reservation) :
    ((s.modRecord i f).record j).isSome = (s.record j).isSome := by
  by_cases e : j = i
  · subst e; simp [State.modRecord, State.record]
  · simp [State.modRecord, State.record, State.slot_modSlot_ne _ _ _ _ e]

omit k in
theorem record_unbind_isSome (s : State) (i j : SlotNo) : ((s.unbind i).record j).isSome = (s.record j).isSome := by
  unfold State.unbind
  split
  · rfl
  · simp [record_modRecord_isSome]

theorem retire (s : State) (i : SlotNo) (o : Ending) (h : P s) : P (s.retire i o) := by
  unfold State.retire
  split
  · exact h
  · rename_i r hr
    refine k.freeSlot _ _ _ (k.leaveLists _ _ (k.dropDeadline _ _ (k.unbind _ _ h))) ?_
    simp [record_unbind_isSome, hr]

theorem create (s : State) (n : NewRecord) (i : SlotNo) (t : State) (e : s.create n = some (i, t)) (h : P s) : P t := by
  unfold State.create at e
  split at e
  · exact absurd e (by simp)
  · rename_i j rest hj
    simp only [Option.some.injEq, Prod.mk.injEq] at e
    obtain ⟨rfl, rfl⟩ := e
    exact k.takeSlot _ _ _ _ h hj

theorem holdAt (s : State) (i : SlotNo) (b : BayNo) (n : Nat) (h : P s) : P (s.holdAt i b n) :=
  k.startDeadline _ _ _ _ (k.enter _ _ _ (by simp) (k.modRecord _ _ _ (k.bind _ _ _ h))) fun _ => rfl

theorem placeWaiting (s : State) (i : SlotNo) (b : BayNo) (h : P s) : P (s.placeWaiting i b) := by
  unfold State.placeWaiting
  split
  · exact h
  · exact k.bump _ _ (k.setMark _ _ (k.holdAt _ _ _ _ (k.dropDeadline _ _ (k.leaveLists _ _ h))))

omit k in
theorem serveRatio_le (ratio : RatioSetting) (count : Nat) (hi no : Option SlotNo) (h : count ≤ 8) :
    (serveRatio ratio count hi no).2 ≤ 8 := by
  unfold serveRatio
  cases ratio <;> simp only [RatioSetting.bound]
  · exact h
  all_goals
    split
    · split
      · dsimp only; omega
      · exact h
    · split <;> first | exact h | simp

theorem offer (s : State) (b : BayNo) (h : P s) : P (s.offer b) := by
  unfold State.offer
  split
  · exact h
  · rename_i plan _
    have h1 := k.ratioCount s
      (serveRatio plan.site.ratio s.ratioCount (s.highList.find? (s.fits b)) (s.normalList.find? (s.fits b))).2 h
      (serveRatio_le _ _ _ _)
    dsimp only
    split
    · exact k.placeWaiting _ _ _ h1
    · exact h1

theorem freeAndOffer (s : State) (b : BayNo) (h : P s) : P (s.freeAndOffer b) := k.offer _ _ (k.enter _ _ _ (by simp) h)

theorem rehome (s : State) (i : SlotNo) (h : P s) : P (s.rehome i) := by
  unfold State.rehome
  split
  · exact h
  · have h1 := k.dropDeadline _ (.slot i) (k.unbind s i h)
    dsimp only
    split
    · exact k.bump _ _ (k.setMark _ _ (k.holdAt _ _ _ _ h1))
    · split
      · exact k.setMark _ _ (k.startWaiting _ _ _ h1)
      · exact k.bump _ _ (k.retire _ _ _ h1)

theorem engage (s : State) (i : SlotNo) (b : BayNo) (h : P s) : P (s.engage i b) := by
  unfold State.engage
  split
  · exact h
  · rename_i r _
    have h1 : P (if r.bay = some b then s else s.bind i b) := by split <;> [exact h; exact k.bind _ _ _ h]
    exact k.setMark _ _ (k.startDeadline _ _ _ _ (k.modRecord _ _ _
      (k.modBay _ _ _ (k.dropDeadline _ _ h1) fun _ => ⟨rfl, rfl⟩)) fun _ => rfl)

/-! ### Sessions -/

theorem startSession (s : State) (b : BayNo) (i : SlotNo) (h : P s) : P (s.startSession b i) :=
  k.bump _ _ (k.setMark _ _ (k.sessions _ _ (k.modGrant _ _ _ (k.modRecord _ _ _
    (k.modBay _ _ _ (k.dropDeadline _ _ h) fun _ => ⟨rfl, rfl⟩)))))

theorem endSession (s : State) (b : BayNo) (stop mark : Bool) (h : P s) : P (s.endSession b stop mark) := by
  unfold State.endSession
  split
  · exact h
  · rename_i i _
    have h1 := k.modRecord s i (fun r => { r with state := .engaged, session := none, sessionDone := true }) h
    have h2 : P (if mark = true then
        (s.modRecord i fun r => { r with state := .engaged, session := none, sessionDone := true }).setMark i
        else s.modRecord i fun r => { r with state := .engaged, session := none, sessionDone := true }) := by
      split <;> [exact k.setMark _ _ h1; exact h1]
    dsimp only
    generalize (if mark = true then _ else _ : State) = u at h2 ⊢
    have h3 : P (if (u.bay b).state = .charging then u.enter b .engaged else u) := by
      split <;> [exact k.enter _ _ _ (by simp) h2; exact h2]
    have h4 := k.modGrant _ b (fun g => { g with target := 0, heldBack := none, pending := none, startQueued := false })
      (k.bayData _ b (fun x => { x with starved := false }) h3)
    split <;> [exact k.makeStop _ _ h4; exact h4]

theorem rehomeHeldAt (s : State) (b : BayNo) (h : P s) : P (s.rehomeHeldAt b) := by
  unfold State.rehomeHeldAt
  split
  · exact h
  · split
    · split <;> [exact k.rehome _ _ h; exact h]
    · exact h

theorem leaveService (s : State) (b : BayNo) (r : Reason) (h : P s) : P (s.leaveService b r) :=
  k.raise _ _ (k.bayData _ _ _ (k.rehomeHeldAt _ _ (k.dropDeadline _ _ (k.takeOut _ _ _ h)))) (by simp)

theorem changeReason (s : State) (b : BayNo) (r : Reason) (h : P s) : P (s.changeReason b r) :=
  k.raise _ _ (k.takeOut _ _ _ h) (by simp)

theorem stayRunsOut (s : State) (i : SlotNo) (r : Reservation) (mark : Bool) (h : P s) : P (s.stayRunsOut i r mark).1 := by
  have h1 := k.modRecord s i (fun x => { x with stayExhausted := true }) h
  unfold State.stayRunsOut
  dsimp only
  have h2 : P (if mark = true then (s.modRecord i fun x => { x with stayExhausted := true }).setMark i
      else s.modRecord i fun x => { x with stayExhausted := true }) := by split <;> [exact k.setMark _ _ h1; exact h1]
  generalize (if mark = true then _ else _ : State) = u at h2 ⊢
  split
  · exact h2
  · split
    · exact k.startDeadline _ _ _ _ (k.endSession _ _ _ _ h2) fun _ => rfl
    · exact k.endSession _ _ _ _ h2
    · split <;> [exact h2; exact k.startDeadline _ _ _ _ h2 fun _ => rfl]
    · exact h2

theorem stayExpires (s : State) (i : SlotNo) (mark : Bool) (h : P s) : P (s.stayExpires i mark) := by
  unfold State.stayExpires
  split
  · exact h
  · split <;> first | exact k.takeRun _ (k.stayRunsOut _ _ _ _ h) | exact h

/-! ### Presentations -/

theorem refusePresentation (s : State) (b : BayNo) (h : P s) : P (s.refusePresentation b) :=
  k.bump _ _ (k.aspectOrder _ _ _ h)

theorem settleLeftBay (s : State) (y : BayNo) (st : BayState) (h : P s) : P (s.settleLeftBay y st) := by
  unfold State.settleLeftBay
  split <;> [exact k.freeAndOffer _ _ h; exact h]

theorem migrate (s : State) (b : BayNo) (i : SlotNo) (r : Reservation) (h : P s) : P (s.migrate b i r) := by
  unfold State.migrate
  split
  · have h1 := k.bump _ .migrations (k.modRecord _ i
      (fun x => { x with migrations := satAdd Config.maxMigrations x.migrations 1 })
      (k.engage _ i b (k.dropDeadline _ (.slot i) (k.unbind s i h))))
    dsimp only
    split <;> [exact k.settleLeftBay _ _ _ h1; exact h1]
  · exact k.refusePresentation _ _ h

theorem waitingArrival (s : State) (b : BayNo) (i : SlotNo) (r : Reservation) (h : P s) : P (s.waitingArrival b i r) := by
  unfold State.waitingArrival
  split
  · exact k.bump _ _ (k.engage _ _ _ (k.dropDeadline _ _ (k.leaveLists _ _ h)))
  · exact k.refusePresentation _ _ h

theorem admitNew (s : State) (b : BayNo) (n : NewRecord) (c : Counter) (h : P s) : P (s.admitNew b n c) := by
  unfold State.admitNew
  split
  · rename_i i t e
    exact k.bump _ _ (k.engage _ _ _ (k.create _ _ _ _ e h))
  · exact k.refusePresentation _ _ h

theorem wrongBay (s : State) (b : BayNo) (h : P s) : P (s.wrongBay b) :=
  k.bayData _ _ _ (k.rehomeHeldAt _ _ (k.raise _ _ (k.enter _ _ _ (by simp) (k.dropDeadline _ _
    (k.refusePresentation _ _ h))) (by simp)))

theorem presentUnheld (s : State) (b : BayNo) (c : Credential) (h : P s) : P (s.presentUnheld b c) := by
  unfold State.presentUnheld
  split
  · split
    · exact h
    · split
      · exact k.migrate _ _ _ _ h
      · exact k.waitingArrival _ _ _ _ h
      all_goals exact k.refusePresentation _ _ h
  · split
    · exact h
    · split
      · simp only [State.allotmentArrival]
        split <;> [exact k.admitNew _ _ _ _ h; exact k.refusePresentation _ _ h]
      · simp only [State.walkIn]
        split <;> [exact k.admitNew _ _ _ _ h; exact k.refusePresentation _ _ h]

theorem present (s : State) (b : BayNo) (c : Credential) (h : P s) : P (s.present b c) := by
  unfold State.present
  split
  · split
    · split
      · split <;> [exact k.bump _ _ (k.engage _ _ _ h); exact k.wrongBay _ _ h]
      · exact k.wrongBay _ _ h
    · exact k.presentUnheld _ _ _ h
  · exact k.presentUnheld _ _ _ h
  all_goals exact h

end KeepsLive

end Sys2Proof.Machine
end

