-- ==== Sys2Proof/Laws/KeepsLink.lean ====
section
/-! SUPPORT. What a step can do to a state, continued: reports, the expiries of a record and of a bay, and the ends of exchanges. -/

-- One proof after another: side by side, the package as one text takes a thread and its stack for each.
set_option Elab.async false

namespace Sys2Proof.Machine.KeepsLive

variable {P : State → Prop} (k : KeepsLive P)
include k

/-! ### Reports -/

theorem makeFaulty (s : State) (b : BayNo) (v : Nat) (h : P s) : P (s.makeFaulty b v) := by
  unfold State.makeFaulty
  split
  · exact k.strand _ _ _ (k.endSession _ _ _ _ (k.leaveService _ _ _ h))
  · exact k.strand _ _ _ (k.endSession _ _ _ _ (k.changeReason _ _ _ h))

theorem stage1 (s : State) (b : BayNo) (r : Report) (h : P s) : P (s.stage1 b r).1 := by
  unfold State.stage1
  split
  · simp only [State.postFaultAt]
    split
    · exact h
    · split <;> first | exact k.makeFaulty _ _ _ h | (split <;> [exact k.strand _ _ _ h; exact h])
    all_goals exact k.testGateOf _ _ (k.makeFaulty _ _ _ h)
  · split
    · simp only [State.detectorFaultAt]
      split
      · exact h
      · split <;> first | exact k.changeReason _ _ _ h | exact h
      all_goals exact k.leaveService _ _ _ h
    · exact h

theorem startIdentifying (s : State) (b : BayNo) (h : P s) : P (s.startIdentifying b) :=
  k.startDeadline _ _ _ _ (k.enter _ _ _ (by simp) h) fun _ => rfl

theorem arrive (s : State) (b : BayNo) (h : P s) : P (s.arrive b) := by
  have h1 := k.bayData s b (fun x => { x with occupancy := .occupied }) h
  unfold State.arrive
  dsimp only
  split
  · exact k.startIdentifying _ _ h1
  · have h2 := k.bayData _ b (fun x => { x with keptHold := true }) (k.startIdentifying _ b h1)
    split <;> [exact k.dropDeadline _ _ h2; exact h2]
  all_goals exact h1

theorem retireDeparted (s : State) (b : BayNo) (h : P s) : P (s.retireDeparted b) := by
  unfold State.retireDeparted
  split
  · exact h
  · split <;> [exact k.retire _ _ _ h; exact h]

theorem restoreHold (s : State) (b : BayNo) (h : P s) : P (s.restoreHold b) := by
  have h1 := k.bayData _ b (fun x => { x with keptHold := false }) (k.enter s b .held (by simp) h)
  unfold State.restoreHold
  dsimp only
  split
  · exact h1
  · split <;> [exact k.startDeadline _ _ _ _ h1 fun _ => rfl; exact h1]

theorem depart (s : State) (b : BayNo) (h : P s) : P (s.depart b) := by
  have h1 := k.dropDeadline _ (.bay b) (k.bayData s b
    (fun x => { x with occupancy := .empty, credential := none, occupancyHeld := false }) h)
  unfold State.depart
  dsimp only
  split
  · exact k.freeAndOffer _ _ (k.retireDeparted _ _ h1)
  · exact k.freeAndOffer _ _ (k.retireDeparted _ _ h1)
  · split <;> [exact k.restoreHold _ _ h1; exact k.freeAndOffer _ _ h1]
  · exact k.freeAndOffer _ _ h1
  · exact k.retireDeparted _ _ h1
  all_goals exact h1

theorem holdOccupied (s : State) (b : BayNo) (h : P s) : P (s.holdOccupied b) :=
  k.bump _ _ (k.bayData _ _ _ h)

theorem stage2 (s : State) (b : BayNo) (r : Report) (h : P s) : P (s.stage2 b r) := by
  unfold State.stage2
  split
  · exact h
  · exact k.arrive _ _ (k.bayData _ _ _ h)
  · exact k.bayData _ _ _ h
  · exact h
  · split <;> [exact k.depart _ _ h; exact k.holdOccupied _ _ h]

theorem stage3 (s : State) (b : BayNo) (r : Report) (h : P s) : P (s.stage3 b r) := by
  unfold State.stage3
  split
  · exact k.bayData _ _ _ (k.present _ _ _ h)
  · exact h

theorem tryStart (s : State) (b : BayNo) (h : P s) : P (s.tryStart b).1 := by
  unfold State.tryStart
  split
  · exact h
  · split
    · exact h
    · split <;> [exact k.aspectOrder _ _ _ h; exact k.startSession _ _ _ h]

theorem userEnds (s : State) (b : BayNo) (h : P s) : P (s.userEnds b).1 := by
  have h1 := k.endSession s b true true h
  unfold State.userEnds
  dsimp only
  split <;> [exact k.startDeadline _ _ _ _ h1 fun _ => rfl; exact h1]

theorem stage4 (s : State) (b : BayNo) (r : Report) (became : Bool) (h : P s) : P (s.stage4 b r became).1 := by
  unfold State.stage4
  dsimp only
  refine k.bayData _ _ _ ?_
  split
  · exact k.tryStart _ _ h
  · split <;> [exact k.userEnds _ _ h; exact h]

theorem stage5 (s : State) (b : BayNo) (r : Report) (h : P s) : P (s.stage5 b r).1 := by
  unfold State.stage5
  dsimp only
  refine k.bayData _ _ _ ?_
  split <;> [exact k.userEnds _ _ h; exact h]

theorem stage6 (s : State) (b : BayNo) (r : Report) (h : P s) : P (s.stage6 b r).1 :=
  k.bayData s b (fun y => { y with demand := r.demand }) h

theorem stages1to6 (s : State) (b : BayNo) (r : Report) (h : P s) : P (s.stages1to6 b r).1 :=
  k.stage6 _ _ _ (k.stage5 _ _ _ (k.stage4 _ _ _ _ (k.stage3 _ _ _ (k.stage2 _ _ _ (k.stage1 _ _ _ h)))))

theorem meter (s : State) (b : BayNo) (v : Nat) (h : P s) : P (s.meter b v) := by
  have h1 := k.bayData s b (fun x => { x with metered := v }) h
  unfold State.meter State.modFeederOf
  dsimp only
  split
  · refine k.modFeeder _ _ _ h1 fun hl m hm => ?_
    obtain ⟨n, hn, rfl⟩ := Option.map_eq_some_iff.1 hm
    exact hl n hn
  · exact h1

omit k in
theorem advance_lawful (m : Monitor) (h : m.Lawful) : m.advance.Lawful := by
  obtain ⟨load, high, low, st, step⟩ := m
  simp only [Monitor.Lawful] at h
  cases st <;> simp only [Monitor.advance] <;> (repeat' split) <;> simp_all [Monitor.Lawful]

theorem evaluateTrim (s : State) (f : FeederNo) (h : P s) : P (s.evaluateTrim f).1 := by
  unfold State.evaluateTrim
  split
  · exact h
  · rename_i m hm
    have h1 := k.modFeeder s f (fun x => { x with monitor := some m.advance }) h fun hl n hn => by
      simp only [Option.some.injEq] at hn; subst hn; exact advance_lawful m (hl m hm)
    dsimp only
    have h2 : P (if m.state ≠ .trimmed ∧ m.advance.state = .trimmed then
        ((s.modFeeder f fun x => { x with monitor := some m.advance }).raise .feeder).bump .trimEntries
        else s.modFeeder f fun x => { x with monitor := some m.advance }) := by
      split <;> [exact k.bump _ _ (k.raise _ _ h1 (by simp)); exact h1]
    split <;> [exact k.raise _ _ h2 (by simp); exact h2]

theorem stage7 (s : State) (b : BayNo) (r : Report) (h : P s) : P (s.stage7 b r) := by
  have h1 := k.meter s b r.metered h
  unfold State.stage7
  dsimp only
  split <;> [exact k.takeRun _ (k.evaluateTrim _ _ h1); exact h1]

theorem clearVerify (s : State) (b : BayNo) (h : P s) : P (s.modUnit b (·.clearVerify)) :=
  k.modUnit _ _ _ h fun hl => ⟨hl.1, Nat.zero_le _, Nat.zero_le _⟩

theorem verify (s : State) (b : BayNo) (v : Nat) (h : P s) : P (s.verify b v).1 := by
  unfold State.verify
  split
  · exact k.clearVerify _ _ h
  · split
    · exact k.modUnit s b (fun u => { u with mismatch := 0 }) h fun hl => ⟨hl.1, Nat.zero_le _, hl.2.2⟩
    · split
      · exact k.clearVerify _ _ h
      · split
        · rename_i hlt
          exact k.modUnit s b (fun u => { u with mismatch := u.mismatch + 1 }) h fun hl =>
            ⟨hl.1, by show (s.unit b).mismatch + 1 ≤ 1; omega, hl.2.2⟩
        · split
          · rename_i hlt
            simp only [State.resend]
            refine k.modUnit _ _ _ (k.handGrant _ _ _ _ h) fun hl => ⟨hl.1, Nat.zero_le _, ?_⟩
            simp only [State.unit_handGrant]; omega
          · exact k.testGateOf _ _ (k.clearVerify _ _ (k.makeFaulty _ _ _ h))

theorem stage8 (s : State) (b : BayNo) (r : Report) (h : P s) : P (s.stage8 b r) := by
  refine k.takeRun _ ?_
  have h1 := k.verify s b r.inForce h
  have h2 : P ((s.verify b r.inForce).1.returningUnit b r.inForce).1 := by
    simp only [State.returningUnit]
    split <;> [exact k.clearStrandedGrant _ _ h1; exact h1]
  generalize ((s.verify b r.inForce).1.returningUnit b r.inForce).1 = u at h2 ⊢
  show P (u.compareAspect b r.aspect)
  simp only [State.compareAspect]
  split
  all_goals split <;> first | exact h2 | exact k.aspectOrder _ _ _ h2

theorem storeOccupancy (s : State) (b : BayNo) (r : Report) (h : P s) : P (s.storeOccupancy b r) := by
  unfold State.storeOccupancy
  split
  · exact h
  · exact k.bayData _ _ _ h
  · exact h
  · split <;> [exact k.bayData _ _ _ h; exact k.holdOccupied _ _ h]

theorem resumeEngaged (s : State) (b : BayNo) (r : Report) (h : P s) : P (s.resumeEngaged b r).1 := by
  unfold State.resumeEngaged
  split
  · have h1 : P (if r.plug.plugs = true then s.tryStart b else (s, false)).1 := by split <;> [exact k.tryStart _ _ h; exact h]
    dsimp only
    generalize (if r.plug.plugs = true then s.tryStart b else (s, false)) = e at h1 ⊢
    split
    · split <;> [exact k.startDeadline _ _ _ _ h1 fun _ => rfl; exact h1]
    · exact h1
  · exact h

theorem rederiveUnbound (s : State) (b : BayNo) (r : Report) (c : Option Credential) (h : P s) :
    P (s.rederiveUnbound b r c).1 := by
  have h1 := k.startIdentifying s b h
  unfold State.rederiveUnbound
  refine k.resumeEngaged _ _ _ ?_
  split <;> [exact k.present _ _ _ h1; exact h1]

theorem rederiveRow (s : State) (b : BayNo) (r : Report) (c : Option Credential) (h : P s) : P (s.rederiveRow b r c).1 := by
  unfold State.rederiveRow
  split
  · exact k.freeAndOffer _ _ h
  · exact k.freeAndOffer _ _ (k.retire _ _ _ h)
  · exact k.rederiveUnbound _ _ _ _ h
  · split
    · exact k.rederiveUnbound _ _ _ _ h
    · split
      · exact k.resumeEngaged _ _ _ (k.enter _ _ _ (by simp) h)
      · exact k.enter _ _ _ (by simp) h
      · exact k.enter _ _ _ (by simp) h
      all_goals exact k.rederiveUnbound _ _ _ _ h

theorem rederive (s : State) (first : Bool) (b : BayNo) (r : Report) (h : P s) : P (s.rederive first b r).1 := by
  have h1 := k.stage1 s b r h
  unfold State.rederive
  dsimp only
  generalize s.stage1 b r = e1 at h1 ⊢
  have h2 : P (if first = true then e1.1.storeOccupancy b r else e1.1.stage2 b r) := by
    split <;> [exact k.storeOccupancy _ _ _ h1; exact k.stage2 _ _ _ h1]
  generalize (if first = true then e1.1.storeOccupancy b r else e1.1.stage2 b r) = s2 at h2 ⊢
  have h3 : P (s2.storeCredential b (s2.freshCredential b r)) := by
    cases s2.freshCredential b r with
    | none => exact h2
    | some c => exact k.bayData s2 b (fun x => { x with credential := some c }) h2
  generalize s2.storeCredential b (s2.freshCredential b r) = s3 at h3 ⊢
  have h5 : P (s3.rederiveStages45 first b r).1 := by
    unfold State.rederiveStages45
    split
    · exact k.bayData s3 b (fun x => { x with plug := r.plug, stop := r.stop }) h3
    · exact k.stage5 _ _ _ (k.stage4 _ _ _ _ h3)
  have h7 := k.bayData _ b (fun x => { x with returnRequested := false }) (k.stage6 _ b r h5)
  split
  · exact h7
  · refine k.rederiveRow _ _ _ _ ?_
    split <;> [exact k.makeStop _ _ h7; exact h7]

theorem takeReport (s : State) (first : Bool) (b : BayNo) (r : Report) (h : P s) : P (s.takeReport first b r) := by
  have h1 : P (if (s.bay b).rederives first = true then s.rederive first b r else s.stages1to6 b r).1 := by
    split <;> [exact k.rederive _ _ _ _ h; exact k.stages1to6 _ _ _ h]
  unfold State.takeReport
  exact k.stage8 _ _ _ (k.stage7 _ _ _ (k.takeRun _ h1))

/-! ### Expiries -/

theorem holdExpires (s : State) (i : SlotNo) (h : P s) : P (s.holdExpires i) := by
  unfold State.holdExpires
  split
  · exact h
  · split
    · have h1 := k.bump _ .noShows (k.retire s i .noShow h)
      dsimp only
      split <;> [exact k.freeAndOffer _ _ h1; exact h1]
    all_goals exact h

theorem waitExpires (s : State) (i : SlotNo) (h : P s) : P (s.waitExpires i) := by
  unfold State.waitExpires
  split
  · exact h
  · split
    · exact k.bump _ _ (k.retire _ _ _ h)
    all_goals exact h

theorem identifyExpires (s : State) (b : BayNo) (h : P s) : P (s.identifyExpires b) := by
  unfold State.identifyExpires
  split
  · have h1 := k.raise _ .bayAlert (k.enter s b .blocked (by simp) h) (by simp)
    dsimp only
    split
    · exact k.bayData _ _ _ (k.rehomeHeldAt _ _ h1)
    · exact h1
  all_goals exact h

theorem graceExpires (s : State) (b : BayNo) (h : P s) : P (s.graceExpires b) := by
  unfold State.graceExpires
  split
  · have h1 := k.bump _ .overstays (k.enter s b .overstay (by simp) h)
    dsimp only
    split <;> [exact k.setMark _ _ (k.dropDeadline _ _ (k.modRecord _ _ _ h1)); exact h1]
  all_goals exact h

/-! ### Exchanges -/

theorem startPoll (s : State) (l : LaneNo) (a : LaneAddr) (h : P s) : P (s.startPoll l a) := by
  refine k.modLane _ _ _ h fun hl => ⟨Nat.zero_le _, hl.2.1, fun y hy => ?_⟩
  simp only [Option.some.injEq] at hy
  subst hy
  exact laneOf_bayAt l a

omit k in
theorem putOnLine_mem (p : Entry → Bool) (q : List Entry) (e : Entry) (he : e ∈ putOnLine p q) :
    ∃ e' ∈ q, e'.bay = e.bay := by
  induction q with
  | nil => simp [putOnLine] at he
  | cons x xs ih =>
    simp only [putOnLine] at he
    split at he
    · rcases List.mem_cons.1 he with rfl | he
      · exact ⟨x, by simp, rfl⟩
      · exact ⟨e, by simp [he], rfl⟩
    · rcases List.mem_cons.1 he with rfl | he
      · exact ⟨e, by simp, rfl⟩
      · obtain ⟨e', h1, h2⟩ := ih he; exact ⟨e', by simp [h1], h2⟩

theorem startOrder (s : State) (l : LaneNo) (p : Entry → Bool) (e : Entry) (he : e ∈ (s.lane l).queue) (h : P s) :
    P (s.startOrder l p e) := by
  unfold State.startOrder
  dsimp only
  refine k.modLane _ _ _ h fun hl => ⟨Nat.min_le_left _ _, fun e' he' => ?_, fun y hy => ?_⟩
  · obtain ⟨e2, h1, h2⟩ := putOnLine_mem p _ e' he'
    rw [← h2]; exact hl.2.1 e2 h1
  · simp only [Option.some.injEq] at hy
    subst hy
    exact hl.2.1 e he

theorem pollOrIdle (s : State) (l : LaneNo) (h : P s) : P (s.pollOrIdle l) := by
  unfold State.pollOrIdle
  split
  · exact k.startPoll _ _ _ h
  · exact k.modLane _ _ _ h fun hl => ⟨Nat.zero_le _, hl.2⟩

theorem chooseNext (s : State) (l : LaneNo) (h : P s) : P (s.chooseNext l) := by
  unfold State.chooseNext
  dsimp only
  split
  · exact k.pollOrIdle _ _ h
  · split
    · rename_i e he
      exact k.startOrder _ _ _ _ (List.mem_of_find?_eq_some he) h
    · split
      · rename_i e q hq
        exact k.startOrder _ _ _ _ (by rw [hq]; exact List.mem_cons_self) h
      · exact k.pollOrIdle _ _ h

theorem startIdleLanes (s : State) (h : P s) : P s.startIdleLanes :=
  foldl_keeps _ (fun _ _ ht => by split <;> [exact k.chooseNext _ _ ht; exact ht]) _ _ h

theorem bayLosesUnit (s : State) (b : BayNo) (h : P s) : P (s.bayLosesUnit b) := by
  unfold State.bayLosesUnit
  split
  · exact h
  · split <;> first | exact k.endSession _ _ _ _ (k.changeReason _ _ _ h) | exact h
  all_goals exact k.endSession _ _ _ _ (k.leaveService _ _ _ h)

theorem unitLost (s : State) (b : BayNo) (h : P s) : P (s.unitLost b) := by
  have h1 := k.modLane _ (laneOf b) (fun l => { l with queue := l.queue.filter fun e => e.bay != b })
    (k.bump s .unitsLost h) fun hl => ⟨hl.1, fun e he => hl.2.1 e (List.mem_of_mem_filter he), hl.2.2⟩
  exact k.allocationRun _ (k.bayLosesUnit _ _ (k.testGateOf _ _ (k.modGrant _ _ _ (k.strand _ _ _ (k.clearVerify _ _ h1)))))

omit k in
theorem failed_lawful (u : BayUnit) (h : u.Lawful) : u.failed.Lawful := by
  obtain ⟨link, cd, mm, rs⟩ := u
  cases link <;> simp only [BayUnit.failed] <;> (repeat' split) <;> simp_all [BayUnit.Lawful] <;> omega

theorem exchangeFailed (s : State) (b : BayNo) (h : P s) : P (s.exchangeFailed b) := by
  have h1 := k.modUnit _ b (·.failed) (k.bump s .linkFailures h) (failed_lawful _)
  unfold State.exchangeFailed
  dsimp only
  split <;> [exact k.unitLost _ _ h1; exact h1]

theorem pollEndsGood (s : State) (b : BayNo) (r : Report) (h : P s) : P (s.pollEndsGood b r) := by
  unfold State.pollEndsGood
  split
  · exact k.takeReport _ _ _ _ (k.modUnit _ _ _ h fun hl => ⟨rfl, hl.2⟩)
  · exact k.takeReport _ _ _ _ (k.handGrant _ _ _ _ (k.modUnit _ _ _ h fun _ => ⟨rfl, Nat.zero_le _, Nat.zero_le _⟩))

theorem orderEndsGood (s : State) (x : Exchange) (o : OrderContent) (h : P s) : P (s.orderEndsGood x o) := by
  have h1 := k.modUnit s x.bay (·.good) h fun hl => ⟨rfl, hl.2⟩
  unfold State.orderEndsGood
  dsimp only
  split <;> [exact k.acknowledge _ _ h1; exact h1]

theorem freeLine (s : State) (l : LaneNo) (leaves : Bool) (h : P s) : P (s.freeLine l leaves) := by
  refine k.modLane _ _ _ h fun hl => ⟨hl.1, fun e he => ?_, fun y hy => by simp at hy⟩
  obtain ⟨e', h1, rfl⟩ := List.mem_map.1 he
  refine hl.2.1 e' ?_
  split at h1 <;> [exact List.mem_of_mem_filter h1; exact h1]

theorem takeEnd (s : State) (l : LaneNo) (x : Exchange) (bytes : List Byte) (h : P s) : P (s.takeEnd l x bytes) := by
  unfold State.takeEnd
  split
  · exact k.freeLine _ _ _ h
  · split
    · exact k.exchangeFailed _ _ (k.freeLine _ _ _ h)
    · exact k.pollEndsGood _ _ _ (k.freeLine _ _ _ h)
    · exact k.orderEndsGood _ _ _ (k.freeLine _ _ _ h)

theorem endExchange (s : State) (l : LaneNo) (bytes : List Byte) (h : P s) : P (s.endExchange l bytes) := by
  unfold State.endExchange
  split
  · exact h
  · exact k.chooseNext _ _ (k.aspectOrders _ _ (k.takeEnd _ _ _ _ h))

end Sys2Proof.Machine.KeepsLive
end

