-- ==== Sys2Proof/Laws/KeepsExec.lean ====
section
/-! SUPPORT. What a step can do to a state, continued: the clock, plan loads, requests, and every command. -/

-- One proof after another: side by side, the package as one text takes a thread and its stack for each.
set_option Elab.async false

namespace Sys2Proof.Machine.KeepsExpiry

variable {P : State → Prop} (k : KeepsExpiry P)
include k

/-! ### The clock and the deadline list -/

theorem curtailExpires (s : State) (h : P s) : P s.curtailExpires :=
  k.allocationRun _ (k.raise _ _ (k.curtailment _ _ h) (by simp))

theorem expire (s : State) (d : Deadline) (h : P s) : P (s.expire d) := by
  obtain ⟨kd, o, due⟩ := d
  cases kd <;> cases o <;> first
    | exact h
    | exact k.holdExpires _ _ h
    | exact k.waitExpires _ _ h
    | exact k.stayExpires _ _ _ h
    | exact k.identifyExpires _ _ h
    | exact k.graceExpires _ _ h
    | exact k.curtailExpires _ h

theorem expiryPass (n : Nat) (s : State) (h : P s) : P (State.expiryPass n s).1 := by
  induction n generalizing s with
  | zero => exact h
  | succ n ih =>
    unfold State.expiryPass
    split
    · exact h
    · rename_i d rest hd
      split
      · exact ih _ (k.expire _ _ (k.deadlines _ _ h fun hl => (hd ▸ hl).tail))
      · exact h

end Sys2Proof.Machine.KeepsExpiry

namespace Sys2Proof.Machine

/-- A request that passes the checks of its frame has every field in range (R178, R179). -/
theorem judgeFrame_badField {s : State} {frame : List Byte} {c : Instr} (h : s.judgeFrame frame = .request c) :
    badField c = 0 := by
  unfold State.judgeFrame at h
  dsimp only at h
  repeat (split at h; · cases h)
  unfold State.judgeBody at h
  split at h
  · rename_i form d _ _
    have hb : badBodyField (fieldAt frame 0 1) ((frame.drop 4).take (fieldAt frame 2 2)) d = 0 ∧ d = c := by
      cases form <;> (dsimp only at h; split at h <;> [cases h; skip]; split at h <;> [cases h; skip]) <;>
        (rename_i hb; split at h <;> [cases h; skip]; cases h; exact ⟨by simpa using hb, rfl⟩)
    obtain ⟨hb, rfl⟩ := hb
    unfold badBodyField at hb
    by_contra hn
    simp [hn] at hb
  · cases h

end Sys2Proof.Machine

namespace Sys2Proof.Machine.Keeps

variable {P : State → Prop} (k : Keeps P)
include k

theorem advanceClock (s : State) (v : Nat) (h : P s) (hv : s.clock ≤ Config.max32 → s.clock ≤ v ∧ v ≤ Config.max32) :
    P (s.advanceClock v).1 :=
  k.expiryPass _ _ (k.clock _ _ h hv)

theorem expireEntry (s : State) (kd : DeadlineKind) (o : Owner) (h : P s) : P (s.expireEntry kd o) := by
  unfold State.expireEntry
  split
  · split
    · exact k.aspectOrders _ _ (k.expire _ _ (k.dropDeadline _ _ h))
    · exact h
  · exact h

/-! ### Plan loads -/

theorem removeBay (s : State) (b : BayNo) (h : P s) : P (s.removeBay b) := by
  unfold State.removeBay
  dsimp only
  refine k.modLane _ _ _ (k.modBay _ _ _ (k.modUnit _ _ _ (k.modGrant _ _ _ (k.modFeederOf _ _ _ h))
    fun _ => ⟨rfl, Nat.zero_le _, Nat.zero_le _⟩) fun _ => ⟨rfl, rfl⟩)
    fun hl => ⟨hl.1, fun e he => hl.2.1 e (List.mem_of_mem_filter he), fun y hy => ?_⟩
  obtain ⟨z, hz, rfl⟩ := Option.map_eq_some_iff.1 hy
  split <;> exact hl.2.2 z hz

theorem changeBay (s : State) (b : BayNo) (p : BayPlan) (h : P s) : P (s.changeBay b p) := by
  unfold State.changeBay
  exact k.modFeeder _ _ _ (k.bayData _ _ _ (k.modFeederOf _ _ _ h))
    (by exact fun hl m hm => hl m hm)

theorem addBay (s : State) (b : BayNo) (p : BayPlan) (h : P s) : P (s.addBay b p) :=
  k.modBay _ _ _ (k.modUnit _ _ _ (k.modGrant _ _ _ h) fun _ => ⟨rfl, Nat.zero_le _, Nat.zero_le _⟩) fun _ => ⟨rfl, rfl⟩

theorem settleBay (p : Plan) (s : State) (b : BayNo) (h : P s) : P (State.settleBay p s b) := by
  unfold State.settleBay
  split
  · exact k.removeBay _ _ h
  · exact k.changeBay _ _ _ h
  · exact k.addBay _ _ _ h
  · exact h

omit k in
theorem newMonitor_lawful (record : Option FeederPlan) (load : Nat) (x : Feeder) (h : x.Lawful) (m : Monitor)
    (hm : newMonitor record load x.monitor = some m) : m.Lawful := by
  obtain ⟨q, _, rfl⟩ := Option.map_eq_some_iff.1 hm
  cases hx : x.monitor with
  | none => simp [Monitor.Lawful]
  | some n =>
    have := h n hx
    simpa [Monitor.Lawful] using this

theorem takeUpFeeders (s : State) (p : Plan) (h : P s) : P (s.takeUpFeeders p) :=
  foldl_keeps _ (fun _ _ ht => k.modFeeder _ _ _ ht fun hl m hm => newMonitor_lawful _ _ _ hl m hm) _ _ h

theorem offerFreeBays (s : State) (h : P s) : P s.offerFreeBays :=
  foldl_keeps _ (fun _ _ ht => by split <;> [exact k.offer _ _ ht; exact ht]) _ _ h

theorem applyPlan (s : State) (p : Plan) (h : P { s with plan := some p }) : P (s.applyPlan p) := by
  refine k.offerFreeBays _ (k.allocationRun _ (k.takeUpFeeders _ _ ?_))
  unfold State.rederiveAllotments
  refine k.remap _ _ _ (foldl_keeps _ (fun _ _ ht => k.settleBay _ _ _ ht) _ _ h) ?_
  split
  · split <;> simp
  · exact .inr rfl

theorem endCompletion (s : State) (h : P s) : P s.endCompletion := k.raise _ _ (k.staged _ _ h) (by simp)

theorem completePlan (hp : ∀ s p, P s → P { s with plan := some p }) (s : State) (n : Nat) (h : P s) :
    P (s.completePlan n).1 := by
  unfold State.completePlan
  dsimp only
  split
  · exact k.endCompletion _ h
  · split
    · exact k.endCompletion _ h
    · split
      · exact k.endCompletion _ h
      · exact k.startIdleLanes _ (k.aspectOrders _ _ (k.endCompletion _ (k.applyPlan _ _ (hp _ _ h))))

theorem setSequence (s : State) (q : Option Nat) (hq : ∀ n, q = some n → 1 ≤ n ∧ n ≤ Config.maxSegments) (h : P s) :
    P (s.setSequence q) :=
  k.port _ _ h fun hl => ⟨hl.1, hl.2.1, hq, hl.2.2.2⟩

theorem firstSegment (s : State) (body : List Byte) (h : P s) : P (s.firstSegment body).1 :=
  k.setSequence _ _ (by simp [Config.maxSegments]) (k.staged _ _ h)

omit k in
theorem segmentFits_lt {s : State} {n : Nat} {body : List Byte} (h : s.segmentFits n body = true) : n < Config.maxSegments := by
  simp [State.segmentFits] at h; exact h.1

theorem middleSegment (s : State) (body : List Byte) (h : P s) : P (s.middleSegment body).1 := by
  unfold State.middleSegment
  split
  · exact h
  · split
    · rename_i n _ hf
      refine k.setSequence _ _ (fun m hm => ?_) (k.staged _ _ h)
      simp only [Option.some.injEq] at hm
      have := segmentFits_lt hf
      omega
    · exact k.setSequence _ _ (by simp) (k.staged _ _ h)

theorem lastSegment (hp : ∀ s p, P s → P { s with plan := some p }) (s : State) (body : List Byte) (h : P s) :
    P (s.lastSegment body).1 := by
  unfold State.lastSegment
  split
  · exact h
  · split
    · exact k.completePlan hp _ _ (k.setSequence _ _ (by simp) (k.staged _ _ h))
    · exact k.setSequence _ _ (by simp) (k.staged _ _ h)

theorem onlySegment (hp : ∀ s p, P s → P { s with plan := some p }) (s : State) (body : List Byte) (h : P s) :
    P (s.onlySegment body).1 :=
  k.completePlan hp _ _ (k.setSequence _ _ (by simp) (k.staged _ _ h))

/-! ### The port -/

theorem reply (s : State) (c : Byte) (st : Status) (body : List Byte) (h : P s) : P (s.reply c st body) :=
  k.port _ _ h fun hl => ⟨rfl, Nat.zero_le _, hl.2.2.1, rfl, nofun⟩

theorem shiftOut (s : State) (bytes : List Byte) (h : P s) : P (s.shiftOut bytes) := k.port _ _ h fun hl => hl

/-- A frame taken and its checks made: answered at once, or handed over as a request that has passed check 8. -/
theorem checkFrame (s : State) (bytes : List Byte) (h : P s) : P ((s.takeFrame bytes).checkFrame bytes) := by
  have answered (t : State) (c : Byte) (st : Status) (body : List Byte) (ht : P { t with port := s.port })
      (hs : t.port = (s.takeFrame bytes).port) : P (t.reply c st body) := by
    have := k.reply _ c st body ht
    have e : (State.reply { t with port := s.port } c st body) = t.reply c st body := by
      simp only [State.reply, hs]; rfl
    rwa [e] at this
  unfold State.checkFrame
  dsimp only
  split
  · refine answered _ _ _ _ ?_ (by simp)
    have e : ({ (s.takeFrame bytes).bump .framesDiscarded with port := s.port } : State) = s.bump .framesDiscarded := by
      by_cases hc : s.counters[Counter.framesDiscarded.index.val] + 1 = Config.counterHighMark <;>
        simp only [State.bump, State.raise, State.takeFrame, hc, if_true, if_false]
    rw [e]; exact k.bump _ _ h
  · split
    · rename_i c hc
      exact k.port s _ h fun hl => ⟨rfl, by simp only [State.takeFrame, List.length_take]; omega, hl.2.2.1, rfl,
        fun d hd => by cases hd; exact judgeFrame_badField hc⟩
    · exact answered _ _ _ _ h rfl

theorem serve (s : State) (c : Instr) (event : State → State × Answer) (h : P s)
    (he : (s.port.Lawful → badField c = 0) → P (event s).1) : P (s.serve c event) := by
  unfold State.serve
  split
  · rename_i hc
    exact k.reply _ _ _ _ (he fun hl => hl.2.2.2.2 c hc)
  · exact h

theorem settled (s : State) (event : State → State × Answer) (he : P (event s).1) :
    P (Machine.settled event s).1 := by
  unfold Machine.settled
  exact k.aspectOrders _ _ he

/-! ### Reservation requests -/

theorem refuseBooking (s : State) (st : Status) (body : List Byte) (h : P s) : P (s.refuseBooking st body).1 := k.bump _ _ h

theorem bookAt (s : State) (n : NewRecord) (b : BayNo) (h : P s) : P (s.bookAt n b).1 := by
  unfold State.bookAt
  split
  · rename_i i t e
    exact k.bump _ _ (k.holdAt _ _ _ _ (k.create _ _ _ _ e h))
  · exact k.refuseBooking _ _ _ h

theorem bookWaiting (s : State) (n : NewRecord) (h : P s) : P (s.bookWaiting n).1 := by
  unfold State.bookWaiting
  split
  · rename_i i t e
    exact k.bump _ _ (k.startWaiting _ _ _ (k.create _ _ _ _ e h))
  · exact k.refuseBooking _ _ _ h

theorem book (s : State) (q : BookReq) (h : P s) : P (s.book q).1 := by
  unfold State.book
  split
  · exact k.refuseBooking _ _ _ h
  · split
    · exact k.refuseBooking _ _ _ h
    · split
      · simp only [State.bookAnywhere]
        split
        · exact k.bookAt _ _ _ h
        · split <;> [exact k.bookWaiting _ _ h; exact k.refuseBooking _ _ _ h]
      · split
        · simp only [State.bookPinned]
          split <;> [exact k.bookAt _ _ _ h; exact k.refuseBooking _ _ _ h]
        · exact k.refuseBooking _ _ _ h

theorem amendHold (s : State) (i : SlotNo) (n : Nat) (h : P s) : P (s.amendHold i n) := by
  have h1 := k.modRecord s i (fun r => { r with hold := n }) h
  unfold State.amendHold
  dsimp only
  split
  · split <;> [exact k.startDeadline _ _ _ _ h1 fun _ => rfl; exact h1]
  · exact h1

theorem amendStay (s : State) (i : SlotNo) (r : Reservation) (n : Nat) (h : P s) : P (s.amendStay i r n) := by
  have h1 := k.dropDeadline _ (.slot i) (k.modRecord s i (fun x => { x with stay := n, stayExhausted := false }) h)
  unfold State.amendStay
  dsimp only
  split <;> [exact k.setDeadline _ _ _ _ h1 rfl; exact k.stayExpires _ _ _ h1]

theorem amendCap (s : State) (i : SlotNo) (cap : Option Nat) (h : P s) : P (s.amendCap i cap) := by
  have h1 := k.modRecord s i (fun x => { x with cap := cap }) h
  unfold State.amendCap
  dsimp only
  split
  · split <;> [exact k.allocationRun _ h1; exact h1]
  · exact h1

theorem amendMask (s : State) (i : SlotNo) (r : Reservation) (q : AmendReq) (h : P s) : P (s.amendMask i r q) := by
  have h1 := k.modRecord s i (fun x => { x with zoneMask := q.mask }) h
  unfold State.amendMask
  split
  · simp only [State.amendMaskWaiting]
    split <;> [exact k.holdAt _ _ _ _ (k.dropDeadline _ _ (k.leaveLists _ _ h1)); exact h1]
  · simp only [State.amendMaskMoving]
    have h2 := k.dropDeadline _ (.slot i) (k.unbind _ i h1)
    refine k.settleLeftBay _ _ _ ?_
    split <;> [exact k.holdAt _ _ _ _ h2; exact k.startWaiting _ _ _ h2]
  · exact h1

theorem applyAmend (s : State) (q : AmendReq) (i : SlotNo) (r : Reservation) (h : P s) : P (s.applyAmend q i r) := by
  unfold State.applyAmend
  dsimp only
  have h1 : P (if q.holdPresent = 0 then s else s.amendHold i q.hold.toNat) := by
    split <;> [exact h; exact k.amendHold _ _ _ h]
  generalize (if q.holdPresent = 0 then s else s.amendHold i q.hold.toNat) = s1 at h1 ⊢
  have h2 : P (if q.stayPresent = 0 then s1 else s1.amendStay i r q.stay.toNat) := by
    split <;> [exact h1; exact k.amendStay _ _ _ _ h1]
  generalize (if q.stayPresent = 0 then s1 else s1.amendStay i r q.stay.toNat) = s2 at h2 ⊢
  have h3 : P (if q.capAction = 0 then s2 else s2.amendCap i (if q.capAction = 1 then some q.cap.toNat else none)) := by
    split <;> [exact h2; exact k.amendCap _ _ _ h2]
  generalize (if q.capAction = 0 then s2 else s2.amendCap i (if q.capAction = 1 then some q.cap.toNat else none)) = s3 at h3 ⊢
  split <;> [exact h3; exact k.amendMask _ _ _ _ h3]

theorem amend (s : State) (q : AmendReq) (h : P s) : P (s.amend q).1 := by
  unfold State.amend
  split
  · split
    · exact h
    · split <;> [exact h; exact k.applyAmend _ _ _ _ h]
  all_goals exact h

theorem cancel (s : State) (t : BitVec 16) (h : P s) : P (s.cancel t).1 := by
  unfold State.cancel
  split
  · split
    · simp only [State.cancelRecord]
      split <;> [exact k.settleLeftBay _ _ _ (k.retire _ _ _ h); exact k.retire _ _ _ h]
    · simp only [State.cancelRecord]
      split <;> [exact k.settleLeftBay _ _ _ (k.retire _ _ _ h); exact k.retire _ _ _ h]
    all_goals exact h
  all_goals exact h

theorem releaseRecord (s : State) (i : SlotNo) (r : Reservation) (h : P s) : P (s.releaseRecord i r).1 := by
  unfold State.releaseRecord
  split
  · rename_i b _
    have h1 := k.retire _ i .released (k.endSession s b true false h)
    simp only [State.settleReleased]
    split
    · exact k.raise _ _ (k.dropDeadline _ _ (k.enter _ _ _ (by simp) h1)) (by simp)
    · exact h1
  · exact k.retire _ _ _ h

theorem release (s : State) (t : BitVec 16) (h : P s) : P (s.release t).1 := by
  unfold State.release
  split
  · split <;> first | exact k.takeRun _ (k.releaseRecord _ _ _ h) | exact h
  all_goals exact h

/-! ### Bay, site and reset requests -/

omit k in
theorem atBay (n : BitVec 16) (event : BayNo → State → State × Answer) (s : State) (h : P s)
    (he : ∀ b, P (event b s).1) : P (atBay n event s).1 := by
  unfold Machine.atBay
  split <;> [exact he _; exact h]

theorem serviceOut (b : BayNo) (s : State) (h : P s) : P (s.serviceOut b).1 := by
  unfold State.serviceOut
  split
  · exact k.takeOut _ _ _ h
  · exact k.rehomeHeldAt _ _ (k.takeOut _ _ _ h)
  · exact k.takeRun _ (k.endSession _ _ _ _ (k.bayData _ _ _ (k.takeOut _ _ _ h)))
  all_goals exact h

theorem serviceIn (b : BayNo) (s : State) (h : P s) : P (s.serviceIn b).1 := by
  unfold State.serviceIn
  split <;> [exact k.bayData s b (fun x => { x with returnRequested := true }) h; exact h]

theorem clearStranded (b : BayNo) (s : State) (h : P s) : P (s.clearStranded b).1 := by
  unfold State.clearStranded
  split
  · have h1 := k.clearStrandedGrant s b h
    refine k.allocationRun _ ?_
    split <;> [exact k.meter _ _ _ h1; exact h1]
  · exact h

theorem curtail (amount duration : Nat) (s : State) (h : P s) : P (s.curtail amount duration).1 := by
  unfold State.curtail
  dsimp only
  split
  · simp only [State.endCurtailment]
    split
    · exact k.takeRun _ (k.dropDeadline _ _ (k.curtailment _ _ h))
    · exact h
  · exact k.takeRun _ (k.startDeadline _ _ _ _ (k.curtailment _ _ h) fun _ => rfl)

theorem setClock (s : State) (v : BitVec 32) (h : P s) : P (s.setClock v.toNat).1 := by
  have := v.isLt
  unfold State.setClock
  split
  · exact h
  · split
    · exact h
    · exact k.advanceClock _ _ h fun _ => ⟨by omega, by simp only [Config.max32]; omega⟩

theorem dropOrders (s : State) (b : BayNo) (h : P s) : P (s.dropOrders b) := k.modGrant _ _ _ (k.endSession _ _ _ _ h)

theorem resetBay (s : State) (b : BayNo) (h : P s) : P (s.resetBay b) := by
  unfold State.resetBay
  split
  · split <;> [exact k.enter _ _ _ (by simp) h; exact k.startIdentifying _ _ h]
  · exact h

theorem resetLanes (s : State) (h : P s) : P s.resetLanes := by
  refine foldl_keeps _ (fun t b ht => ?_) _ _ (foldl_keeps _ (fun t l ht => k.modLane _ _ _ ht fun hl => ?_) _ _ h)
  · simp only [State.zeroStop]
    split <;> [exact k.handGrant _ _ _ _ ht; exact ht]
  · refine ⟨hl.1, by simp [Lane.flushed], fun y hy => ?_⟩
    obtain ⟨z, hz, rfl⟩ := Option.map_eq_some_iff.1 hy
    exact hl.2.2 z hz

theorem retireAll (s : State) (h : P s) : P s.retireAll :=
  k.ratioCount _ 0 (foldl_keeps _ (fun _ _ ht => k.retire _ _ _ ht) _ _ h) fun _ => Nat.zero_le _

theorem dropAllDeadlines (s : State) (h : P s) : P s.dropAllDeadlines :=
  k.curtailment _ 0 (k.deadlines _ [] h fun _ => ⟨.nil, .nil, by simp⟩)

theorem softReset (s : State) (h : P s) : P s.softReset := by
  have h1 := k.setSequence _ none (by simp) (k.staged s [] h)
  unfold State.softReset
  dsimp only
  refine k.resetNotices _ (k.offerFreeBays _ (k.allocationRun _ (k.resetLanes _ ?_)))
  refine foldl_keeps _ (fun _ _ ht => k.resetBay _ _ ht) _ _ (k.dropAllDeadlines _ (k.retireAll _ ?_))
  exact foldl_keeps _ (fun _ _ ht => k.dropOrders _ _ ht) _ _ h1

/-! ### Every command -/

/-- What every command keeps: the leaf updates, and for the commands that do more (a plan apply, SNAPSHOT COUNTERS, a hardware
reset) what those keep. -/
theorem exec (c : Instr) (s t : State)
    (hp : closesSequence c = true → ∀ s p, P s → P { s with plan := some p })
    (hc : ∀ x, c = .snapshotCounters x → ∀ s clear, P s → P (s.snapshotCounters clear).1)
    (hr : c = .hardwareReset → ∀ s, P s → P { State.reset with pending := s.pending })
    (h : P s) (e : exec c s = .next t) : P t := by
  cases c <;> (simp only [Machine.exec] at e)
  case writeTransaction b bytes =>
    simp only [execWriteTransaction] at e
    have h1 := k.shiftOut s ((s.judgedState b).code :: List.replicate bytes.length 0) h
    split at e <;> cases e
    · exact k.bump _ _ h1
    all_goals exact k.checkFrame _ _ h1
  case readTransaction b n =>
    simp only [execReadTransaction] at e
    split at e
    · split at e <;> cases e
      · rename_i hst _ _
        exact k.port _ _ (k.shiftOut _ _ h) fun hl => ⟨rfl, hl.2.1, hl.2.2.1, by
          have := hl.2.2.2.1; cases b <;> simp_all [State.shiftOut, State.judgedState], hl.2.2.2.2⟩
      · exact k.shiftOut _ _ h
    · cases e; exact k.shiftOut _ _ h
  case invalidCommandTransaction b cmd n =>
    simp only [execInvalidCommandTransaction] at e
    split at e <;> cases e <;> exact k.shiftOut _ _ h
  case book q => cases e; exact k.serve _ _ _ h fun _ => k.settled _ _ (k.book _ _ h)
  case amend q => cases e; exact k.serve _ _ _ h fun _ => k.settled _ _ (k.amend _ _ h)
  case cancel => cases e; exact k.serve _ _ _ h fun _ => k.settled _ _ (k.cancel _ _ h)
  case release => cases e; exact k.serve _ _ _ h fun _ => k.settled _ _ (k.release _ _ h)
  case queryReservation => cases e; exact k.serve _ _ _ h fun _ => h
  case findCredential => cases e; exact k.serve _ _ _ h fun _ => h
  case listChanges => cases e; exact k.serve _ _ _ h fun _ => k.clearMarks _ _ h
  case queryBay => cases e; exact k.serve _ _ _ h fun _ => atBay _ _ _ h fun _ => h
  case setBayServiceOut =>
    cases e; exact k.serve _ _ _ h fun _ => k.settled _ _ (atBay _ _ _ h fun b => k.serviceOut b _ h)
  case setBayServiceIn => cases e; exact k.serve _ _ _ h fun _ => atBay _ _ _ h fun b => k.serviceIn b _ h
  case clearStranded =>
    cases e; exact k.serve _ _ _ h fun _ => k.settled _ _ (atBay _ _ _ h fun b => k.clearStranded b _ h)
  case loadPlanFirst => cases e; exact k.serve _ _ _ h fun _ => k.firstSegment _ _ h
  case loadPlanMiddle => cases e; exact k.serve _ _ _ h fun _ => k.middleSegment _ _ h
  case loadPlanLast => cases e; exact k.serve _ _ _ h fun _ => k.lastSegment (hp rfl) _ _ h
  case loadPlanOnly => cases e; exact k.serve _ _ _ h fun _ => k.onlySegment (hp rfl) _ _ h
  case queryFeeder => cases e; exact k.serve _ _ _ h fun _ => h
  case curtail => cases e; exact k.serve _ _ _ h fun _ => k.settled _ _ (k.curtail _ _ _ h)
  case curtailAmountZero => cases e; exact k.serve _ _ _ h fun _ => k.settled _ _ (k.curtail _ _ _ h)
  case setClock => cases e; exact k.serve _ _ _ h fun _ => k.settled _ _ (k.setClock _ _ h)
  case readClock => cases e; exact k.serve _ _ _ h fun _ => h
  case readNotices => cases e; exact k.serve _ _ _ h fun _ => k.taken _ h
  case setNoticeMask => cases e; exact k.serve _ _ _ h fun _ => k.masked _ _ h
  case setChangeThreshold n =>
    cases e
    refine k.serve _ _ _ h fun hb => k.threshold _ _ h fun hl => ?_
    have hb := hb hl
    simp only [badField, firstBad, inRange] at hb
    exact ⟨by by_contra hn; simp [hn] at hb, by by_contra hn; simp [hn] at hb⟩
  case snapshotCounters => cases e; exact k.serve _ _ _ h fun _ => hc _ rfl _ _ h
  case readCounters => cases e; exact k.serve _ _ _ h fun _ => h
  case reset => cases e; exact k.serve _ _ _ h fun _ => k.settled _ _ (k.softReset _ h)
  case hardwareReset => cases e; exact hr rfl _ h
  case secPulse =>
    cases e
    exact k.aspectOrders _ _ (k.advanceClock _ _ h fun hl => by simp only [satAdd]; omega)
  case holdEnd => cases e; exact k.expireEntry _ _ _ h
  case waitEnd => cases e; exact k.expireEntry _ _ _ h
  case stayEnd => cases e; exact k.expireEntry _ _ _ h
  case identifyEnd => cases e; exact k.expireEntry _ _ _ h
  case graceEnd => cases e; exact k.expireEntry _ _ _ h
  case curtailEnd => cases e; exact k.expireEntry _ _ _ h
  case report => cases e; exact k.endExchange _ _ _ h
  case ack => cases e; exact k.endExchange _ _ _ h
  case replyTimeout => cases e; exact k.endExchange _ _ _ h
  case badReplyFrame => cases e; exact k.endExchange _ _ _ h
  case lateFrame => cases e; exact h

end Sys2Proof.Machine.Keeps
end

