-- ==== Sys2Proof/Laws/Ops.lean ====
section
/-! SUPPORT. What the shared operations do, each said once: counters, deadlines, binding and holds, tickets, the session at a bay,
a lane's line. -/

-- One proof after another: side by side, the package as one text takes a thread and its stack for each.
set_option Elab.async false

namespace Sys2Proof.Machine

variable (s : State)

/-! ### Counters and notices -/

theorem State.counters_bump (c : Counter) :
    (s.bump c).counters = s.counters.set c.index.val (satAdd Config.max32 (s.counter c) 1) := by
  simp only [State.bump]; split <;> rfl

theorem State.notices_bump (c : Counter) :
    (s.bump c).notices = if s.counter c + 1 = Config.counterHighMark then s.notices.raise .counterHigh else s.notices := by
  unfold State.bump State.counter
  dsimp only
  split <;> rfl

/-- A record changed leaves the marked count as it is. -/
theorem State.markedCount_modRecord (i : SlotNo) (f : Reservation → Reservation) :
    (s.modRecord i f).markedCount = s.markedCount := by
  unfold State.markedCount State.modRecord State.modSlot
  simp only [Vector.toList_set]
  rw [List.countP_set (by simp)]
  simp only [Vector.getElem_toList]
  by_cases h : s.slots[i.val].mark = true
  · have : 0 < List.countP (fun x => x.mark) s.slots.toList := by
      rw [List.countP_pos_iff]; exact ⟨_, List.getElem_mem (n := i.val) (by simp), by simpa using h⟩
    simp only [h, if_true]; omega
  · simp [h]

/-! ### Deadlines -/

/-- The entry just inserted is the one its owner holds. -/
theorem find_insertByDue (o : Owner) (d : Deadline) (h : d.owner = o) (ds : List Deadline) :
    (insertByDue d (ds.filter fun e => e.owner != o)).find? (fun e => e.owner == o) = some d := by
  induction ds with
  | nil => simp [insertByDue, h]
  | cons x xs ih =>
    rw [List.filter_cons]
    by_cases e : x.owner = o
    · simp [e, ih]
    · simp only [bne_iff_ne, ne_eq, e, not_false_eq_true, if_true, insertByDue]
      split <;> simp [h, e, ih]

theorem State.deadlineOf_startDeadline (k : DeadlineKind) (o : Owner) (n : Nat) :
    (s.startDeadline k o n).deadlineOf o = some ⟨k, o, s.dueIn n⟩ :=
  find_insertByDue o ⟨k, o, s.dueIn n⟩ rfl s.deadlines

/-! ### Binding and holds -/

variable {s}

theorem State.modFeederOf_planned {b : BayNo} {p : BayPlan} (h : (s.bay b).place = some p) (g : Feeder → Feeder) :
    s.modFeederOf b g = s.modFeeder p.feeder g := by
  simp [State.modFeederOf, State.feederOf, h]

theorem State.pminOf_planned {b : BayNo} {p : BayPlan} (h : (s.bay b).place = some p) : s.pminOf b = p.pmin := by
  simp [State.pminOf, h]

/-- Record and planned bay bound (R53). -/
theorem State.bind_planned {i : SlotNo} {r : Reservation} {b : BayNo} {p : BayPlan} (hr : s.record i = some r)
    (hp : (s.bay b).place = some p) :
    s.bind i b = { s with
      slots := s.slots.set i.val { s.slot i with record := some { r with bay := some b } }
      bays := s.bays.set b.val { s.bay b with bound := some i }
      feeders := s.feeders.set p.feeder.val
        { s.feeder p.feeder with pledge := (s.feeder p.feeder).pledge + p.pmin } } := by
  have hr' : s.slots[i.val].record = some r := hr
  unfold State.bind
  rw [State.modFeederOf_planned (p := p) (by simp [hp]), State.pminOf_planned hp]
  apply State.ext <;>
    simp [State.modRecord, State.modSlot, State.modBay, State.modFeeder, State.slot, State.bay, State.feeder, hr']

theorem State.unbind_unbound {i : SlotNo} {r : Reservation} (hr : s.record i = some r) (hb : r.bay = none) :
    s.unbind i = s := by
  simp [State.unbind, hr, hb]

/-- Record and planned bay unbound (R53). -/
theorem State.unbind_planned {i : SlotNo} {r : Reservation} {b : BayNo} {p : BayPlan} (hr : s.record i = some r)
    (hb : r.bay = some b) (hp : (s.bay b).place = some p) :
    s.unbind i = { s with
      slots := s.slots.set i.val { s.slot i with record := some { r with bay := none } }
      bays := s.bays.set b.val { s.bay b with bound := none, keptHold := false }
      feeders := s.feeders.set p.feeder.val
        { s.feeder p.feeder with pledge := (s.feeder p.feeder).pledge - p.pmin } } := by
  have hr' : s.slots[i.val].record = some r := hr
  unfold State.unbind
  simp only [hr, Option.bind_some, hb]
  rw [State.modFeederOf_planned (p := p) (by simp [hp]), State.pminOf_planned hp]
  apply State.ext <;>
    simp [State.modRecord, State.modSlot, State.modBay, State.modFeeder, State.slot, State.bay, State.feeder, hr']

/-- A record HELD at a planned bay (R59, R60, R64, R95, R106). -/
theorem State.holdAt_planned {i : SlotNo} {r : Reservation} {b : BayNo} {p : BayPlan} (hold : Nat)
    (hr : s.record i = some r) (hp : (s.bay b).place = some p) :
    s.holdAt i b hold = { s with
      slots := s.slots.set i.val { s.slot i with record := some { r with state := .held, bay := some b } }
      bays := s.bays.set b.val { s.bay b with state := .held, aspect := .reserved, reason := none, bound := some i }
      feeders := s.feeders.set p.feeder.val
        { s.feeder p.feeder with pledge := (s.feeder p.feeder).pledge + p.pmin }
      deadlines := insertByDue ⟨.holdEnd, .slot i, s.dueIn hold⟩ (s.deadlines.filter fun d => d.owner != .slot i) } := by
  unfold State.holdAt
  rw [State.bind_planned hr hp]
  apply State.ext <;>
    simp [State.modRecord, State.modSlot, State.enter, State.modBay, State.startDeadline, State.setDeadline, State.dueIn,
      Bay.enter, BayState.aspect]

/-! ### Tickets and sessions -/

/-- A ticket that resolves to a live record names its slot and its generation (R49). -/
theorem State.resolve_live {t : BitVec 16} {i : SlotNo} {r : Reservation} (h : s.resolve t = .live i r) :
    ticketSlot t = i ∧ s.record i = some r ∧ ticketGeneration t = (s.slot i).generation := by
  unfold State.resolve at h
  simp only at h
  split at h
  · rename_i h1
    split at h
    · rename_i h2; cases h; exact ⟨rfl, h1, h2⟩
    · cases h
  · split at h <;> cases h
  · cases h

theorem State.sessionAt_eq_some {b : BayNo} {i : SlotNo} :
    s.sessionAt b = some i ↔ (s.bay b).bound = some i ∧ ∃ r, s.record i = some r ∧ r.state = .charging := by
  unfold State.sessionAt
  cases (s.bay b).bound with
  | none => simp
  | some j =>
    simp only [Option.some.injEq]
    cases hr : s.record j with
    | none => simp only [reduceCtorEq, false_iff]; rintro ⟨rfl, r, h, _⟩; simp [hr] at h
    | some r =>
      simp only
      split
      · rename_i h
        constructor
        · intro e; cases e; exact ⟨rfl, r, hr, h⟩
        · rintro ⟨rfl, _⟩; rfl
      · rename_i h
        simp only [reduceCtorEq, false_iff]
        rintro ⟨rfl, q, hq, hc⟩
        rw [hr] at hq; cases hq; exact h hc

/-! ### Aspect orders of an event that changes no lamp -/

theorem aspectOrders_bays {t : State} (h : t.bays = s.bays) : State.aspectOrders s t = t :=
  aspectOrders_same _ _ fun b _ => by simp [State.bay, h]

end Sys2Proof.Machine
end

