-- ==== Sys2Proof/Laws/Reset.lean ====
section
/-! SUPPORT. What the records of the state after a hardware reset read as. -/

-- One proof after another: side by side, the package as one text takes a thread and its stack for each.
set_option Elab.async false

namespace Sys2Proof.Machine

variable (q : List Instr)

@[simp] theorem State.bay_reset (b : BayNo) : State.bay { State.reset with pending := q } b = {} := by
  simp [State.bay, State.reset]

@[simp] theorem State.grant_reset (b : BayNo) : State.grant { State.reset with pending := q } b = {} := by
  simp [State.grant, State.reset]

@[simp] theorem State.unit_reset (b : BayNo) : State.unit { State.reset with pending := q } b = {} := by
  simp [State.unit, State.reset]

@[simp] theorem State.slot_reset (i : SlotNo) : State.slot { State.reset with pending := q } i = {} := by
  simp [State.slot, State.reset]

@[simp] theorem State.record_reset (i : SlotNo) : State.record { State.reset with pending := q } i = none := by
  simp [State.record]

@[simp] theorem State.feeder_reset (f : FeederNo) : State.feeder { State.reset with pending := q } f = {} := by
  simp [State.feeder, State.reset]

@[simp] theorem State.lane_reset (l : LaneNo) : State.lane { State.reset with pending := q } l = {} := by
  simp [State.lane, State.reset]

theorem State.bay_reset' (b : BayNo) : State.reset.bay b = {} := by simp [State.bay, State.reset]

theorem State.grant_reset' (b : BayNo) : State.reset.grant b = {} := by simp [State.grant, State.reset]

theorem State.unit_reset' (b : BayNo) : State.reset.unit b = {} := by simp [State.unit, State.reset]

theorem State.slot_reset' (i : SlotNo) : State.reset.slot i = {} := by simp [State.slot, State.reset]

theorem State.feeder_reset' (f : FeederNo) : State.reset.feeder f = {} := by simp [State.feeder, State.reset]

theorem State.lane_reset' (l : LaneNo) : State.reset.lane l = {} := by simp [State.lane, State.reset]

@[simp] theorem State.markedCount_reset : State.markedCount { State.reset with pending := q } = 0 := by
  have : State.markedCount { State.reset with pending := q } = (List.replicate 1024 ({} : Slot)).countP (·.mark) := by
    simp only [State.markedCount, State.reset, Vector.toList_replicate]
  rw [this, List.countP_replicate]; rfl

theorem State.markedCount_reset' : State.reset.markedCount = 0 := by
  have : State.reset.markedCount = (List.replicate 1024 ({} : Slot)).countP (·.mark) := by
    simp only [State.markedCount, State.reset, Vector.toList_replicate]
  rw [this, List.countP_replicate]; rfl

end Sys2Proof.Machine
end

