-- ==== Sys2Proof/Tests/Slice0.lean ====
section
/-! SUPPORT. Tests against the worked cases of spec/ and tables computed by hand from its rules; the ill-formed commands
`Instr.wellFormed` refuses; and for every obligation with hypotheses a concrete state and operands that meet them. -/

-- One proof after another: side by side, the package as one text takes a thread and its stack for each.
set_option Elab.async false

open Sys2Proof Sys2Proof.Machine

namespace Sys2Proof.Tests

/-! ### A small plan and states over it -/

/-- Ratio 2:1, default weights, identify time 90 s, grace time 600 s. -/
def site : Site where
  limit         := 1000
  mode          := .pooled
  wHigh         := 0
  wNormal       := 0
  fleetPriority := .high
  ratio         := .twoToOne
  identifyTime  := 90
  graceTime     := 600
  walkInReserve := 0
  defaultHold   := 900
  defaultWait   := 600
  defaultStay   := 3600
  replyTimeouts := #v[5, 5, 5, 5]

/-- A STANDARD bay of zone 0 on feeder 0. -/
def place (b : BayNo) : BayPlan := ⟨b, 0, 0, .standard, 14, 220⟩

/-- Bays 0 and 1 on feeder 0, every zone open to walk-ins, one allotment entry for bay 1. -/
def plan : Plan where
  site       := site
  zones      := Vector.replicate 8 ⟨false, true⟩
  feeders    := [⟨0, 800, 0, 230, 180⟩]
  bays       := [place 0, place 1]
  allotments := [⟨0x3A00000000, 8, .fleet, 1, 1, false⟩]

/-- A public record with credential 7, zone mask {0}, hold 900, wait 600, stay 3600. -/
def record (st : ResState) (bay : Option BayNo) : Reservation where
  state         := st
  credential    := 7
  cls           := .pub
  priority      := .normal
  large         := false
  zoneMask      := 1
  hold          := 900
  wait          := 600
  stay          := 3600
  cap           := none
  bay           := bay
  allotment     := none
  seq           := 0
  created       := 0
  arrivedAt     := if st = .waiting ∨ st = .held then none else some 1230
  session       := if st = .charging then some 501 else none
  sessionDone   := false
  stayExhausted := false
  migrations    := 0

/-- The plan active, every bay FREE and EMPTY with an ACTIVE unit, clock 1000; nothing booked. -/
def level : State :=
  let fresh : Bay := { place := none, state := .unplanned }
  let free (b : BayNo) : Bay := { fresh with place := some (place b), state := .free, aspect := .available }
  { State.reset with
    plan := some plan, clock := 1000
    bays := (State.reset.bays.set 0 (free 0)).set 1 (free 1)
    units := (State.reset.units.set 0 { link := .active, countdown := 3 }).set 1 { link := .active, countdown := 3 }
    feeders := State.reset.feeders.set 0 { monitor := some { high := 718, low := 562 } } }

/-- Bay 0 of `s` in a state, its aspect and, out of service, its reason following. -/
def bay0 (s : State) (st : BayState) (reason : Option Reason := none) : State :=
  s.modBay 0 fun x => { x with state := st, aspect := st.aspect, reason := reason }

/-- Slot 0 of `s` taken by a record, the other slots FREE. -/
def slot0 (s : State) (r : Reservation) : State :=
  { s.modSlot 0 (fun x => { x with record := some r }) with freeSlots := (List.finRange 1024).tail }

/-- Slot 0's record bound to bay 0, in states `r` and `b`; a deadline list. -/
def bound (r : ResState) (b : BayState) (ds : List Deadline := []) (reason : Option Reason := none) : State :=
  let s := (bay0 (slot0 level (record r (some 0))) b reason).modBay 0 fun x => { x with bound := some 0 }
  { s with deadlines := ds, feeders := s.feeders.set 0 { s.feeder 0 with pledge := 14 } }

/-- Slot 0's record WAITING in the NORMAL list with its WAIT_END. -/
def waiting : State :=
  { slot0 level (record .waiting none) with normalList := [0], deadlines := [⟨.waitEnd, .slot 0, 1600⟩] }

/-- `s` with command `c` in the part: handed over by the port and not yet answered (R180). -/
def asked (c : Instr) (s : State) : State := { s with port := { s.port with state := .busy, request := some c } }

/-- The state an outcome gives, if it gives one. -/
def nextOf : Host.Outcome State Fault Refusal → Option State
  | .next s => some s
  | .fault _ => none
  | .refused _ => none

/-- A field of the state an outcome gives. -/
def look (o : Host.Outcome State Fault Refusal) (f : State → α) : Option α := (nextOf o).map f

/-- What the owner of `c` answers with `c` in the part. -/
def served (c : Instr) (s : State) : Host.Outcome State Fault Refusal := exec c (asked c s)

/-! ### Worked cases of the spec -/

/-- 09 R157: the check value of this CRC over the digits 1 to 9. -/
theorem test_crc_of_digits :
    crc16 [0x31, 0x32, 0x33, 0x34, 0x35, 0x36, 0x37, 0x38, 0x39] = 0x29B1 := by decide +kernel

/-- 03, worked sequence: ticket 4 + 1024 × 5. -/
theorem test_ticket : ticketOf 4 5 = 5124 ∧ ticketSlot 5124 = 4 ∧ ticketGeneration 5124 = 5 := by decide +kernel

/-- 08, worked sequence: marks and trimmed budgets. -/
theorem test_marks_and_trims :
    markOf 600 230 = 539 ∧ markOf 600 180 = 421 ∧ [0, 1, 2, 3].map (trimBudget 600) = [600, 525, 450, 375] := by
  decide +kernel

/-- 07, worked case: E = 1600 among wants of 800, 500 and 650. -/
theorem test_site_to_feeders : shareBudget .pooled 1600 [800, 500, 650] = [657, 410, 533] := by decide +kernel

/-- The four sessions of chapter 7's worked case, in grant order. -/
def sessions : List Session :=
  [{ bay := 200, pmin := 14, cap := 220, weight := 2, high := true, number := 101, ordinal := 0 },
    { bay := 201, pmin := 14, cap := 110, weight := 1, high := false, number := 97, ordinal := 0 },
    { bay := 202, pmin := 60, cap := 220, weight := 1, high := false, number := 99, ordinal := 0 },
    { bay := 203, pmin := 14, cap := 100, weight := 1, high := false, number := 103, ordinal := 0 }]

/-- 07, worked cases and worked sequence: A_f = 533, then 80; s2 gone and A_f = 469. -/
theorem test_feeder_to_sessions :
    (shareSessions 533 sessions).map (·.grant) = [187, 100, 146, 100] ∧
    (shareSessions 80 sessions).map (·.grant) = [34, 23, 0, 23] ∧
    (shareSessions 469 (sessions.eraseIdx 1)).map (·.grant) = [211, 158, 100] := by decide +kernel

/-- Grant order: HIGH first, then by session number (07 R127). -/
theorem test_sessions_sorted : (sortSessions sessions).map (·.number) = [97, 99, 101, 103] := by decide +kernel

/-- 08, worked sequence: the feeder's state and step after a load. -/
def trimAfter (m : Monitor) (load : Nat) : Monitor :=
  let s := State.reset.modFeeder 0 fun x => { x with monitor := some { m with load := load } }
  (((s.evaluateTrim 0).1.feeder 0).monitor).getD {}

theorem test_hovering_feeder :
    let trail := [500, 560, 530, 545, 540, 539, 600, 480, 700, 420].foldl
      (fun (acc : Monitor × List (TrimState × Nat)) load =>
        let m := trimAfter acc.1 load
        (m, acc.2 ++ [(m.state, m.step)])) ({ high := 539, low := 421 }, [])
    trail.2 = [(.normal, 0), (.trimmed, 1), (.eased, 1), (.trimmed, 2), (.trimmed, 2), (.eased, 2), (.trimmed, 3),
      (.eased, 3), (.trimmed, 3), (.normal, 0)] := by decide +kernel

/-- 04, the example of R75. -/
def entries : List Allotment :=
  [⟨0x3A00000000, 8, .fleet, 0, 1, false⟩, ⟨0x3A50000000, 12, .accessible, 0, 1, false⟩]

theorem test_longest_prefix :
    (longestPrefix entries 0x3A5001F2C7).map (·.1) = some 1 ∧ (longestPrefix entries 0x3A7E004411).map (·.1) = some 0 ∧
    longestPrefix entries 0x4B10000001 = none := by decide +kernel

/-! ### Ill-formed commands, one for each check of `Instr.wellFormed` -/

/-- A BOOK and an AMEND with every field in range. -/
def book : BookReq := ⟨7, 0, 0, 1, 900, 600, 3600, 0, 0, 0, 0⟩
def amend : AmendReq := ⟨0, 0, 0, 0, 0, 0, 0, 0, 0⟩

theorem test_wellFormed_book :
    (Instr.book book).wellFormed = true ∧
    (Instr.book { book with capPresent := 1, cap := 10, pinPresent := 1, pin := 511 }).wellFormed = true ∧
    ([{ book with credential := 0 }, { book with cls := 3 }, { book with large := 2 }, { book with zoneMask := 0 },
      { book with hold := 59 }, { book with hold := 7201 }, { book with wait := 14401 }, { book with stay := 599 },
      { book with stay := 86401 }, { book with capPresent := 2 }, { book with capPresent := 1, cap := 9 },
      { book with capPresent := 1, cap := 1501 }, { book with pinPresent := 2 },
      { book with pinPresent := 1, pin := 512 }].any fun q => (Instr.book q).wellFormed) = false := by decide +kernel

theorem test_wellFormed_amend :
    (Instr.amend amend).wellFormed = true ∧
    ([{ amend with holdPresent := 2 }, { amend with holdPresent := 1, hold := 59 }, { amend with stayPresent := 2 },
      { amend with stayPresent := 1, stay := 599 }, { amend with capAction := 3 }, { amend with capAction := 1, cap := 9 },
      { amend with maskPresent := 2 }, { amend with maskPresent := 1, mask := 0 }].any
        fun q => (Instr.amend q).wellFormed) = false := by decide +kernel

theorem test_wellFormed_others :
    ([.invalidCommandTransaction false (some 1) 0, .invalidCommandTransaction false (some 2) 0,
      .invalidCommandTransaction false none 1, .findCredential 0, .queryBay 512, .setBayServiceOut 512,
      .setBayServiceIn 512, .clearStranded 512, .loadPlanFirst (List.replicate 1017 0),
      .loadPlanMiddle (List.replicate 1017 0), .loadPlanLast (List.replicate 1017 0),
      .loadPlanOnly (List.replicate 1017 0), .queryFeeder 16, .curtail 0 1, .curtail 1 0, .curtail 1 86401,
      .setNoticeMask 64, .setChangeThreshold 0, .setChangeThreshold 65, .snapshotCounters 2, .report 0 [], .ack 0 [],
      .badReplyFrame 0 []].any Instr.wellFormed) = false := by decide +kernel

/-- 10 R179, 12.2: check 8 numbers the same fields of BOOK from 1. -/
theorem test_bad_fields :
    badField (.book { book with credential := 0 }) = 1 ∧ badField (.book { book with zoneMask := 0 }) = 4 ∧
    badField (.book { book with stay := 599 }) = 7 ∧ badField (.book { book with pinPresent := 1, pin := 512 }) = 11 ∧
    badField (.amend { amend with maskPresent := 1 }) = 9 ∧ badField (.curtail 1 0) = 2 := by decide +kernel

/-! ### The port, byte by byte -/

/-- 12.2: CANCEL of ticket 5124 as a frame: 12 00 02 00, 04 14, and the byte that makes the sum 0. -/
theorem test_cancel_frame :
    requestFrame (.cancel 5124) = some [0x12, 0x00, 0x02, 0x00, 0x04, 0x14, 0xD4] := by decide +kernel

/-- R175, R178, R176: the frame is taken, the owner answers STALE_TICKET, the reply is read out in full. -/
theorem test_cancel_over_the_port :
    (look (exec (.writeTransaction false [0x12, 0x00, 0x02, 0x00, 0x04, 0x14, 0xD4]) level) (·.port.state)) = some .busy ∧
    (level.cancel 5124).2 = ⟨.staleTicket, []⟩ ∧
    portFrame (replyCode 0x12) Status.staleTicket.code (level.freeField 0x12) =
      [0x92, 0x10, 0x02, 0x00, 0x00, 0x04, 0x58] ∧
    (look (exec (.readTransaction false 7) { level with port := { state := .reply, reply := some [1, 2, 3] } })
      fun t => (t.port.state, t.port.reply, t.port.shifted)) =
      some (.ready, none, [3, 1, 2, 3, 0, 0, 0, 0]) := by decide +kernel

/-- R178: the checks in their order. -/
theorem test_verdicts :
    level.judgeFrame [0x12, 0, 2, 0, 4, 0x14, 0xD5] = .answer .badChecksum [] ∧
    level.judgeFrame [] = .answer .badLength [] ∧ level.judgeFrame [0x17, 0, 0, 0, 0xE9] = .answer .unknownRequest [] ∧
    level.judgeFrame [0x51, 4, 0, 0, 0xAB] = .answer .badParameter [0] ∧
    level.judgeFrame [0x51, 1, 0, 0, 0xAE] = .answer .segmentOrder [] ∧
    level.judgeFrame [0x51, 0, 1, 0, 0, 0xAE] = .answer .badLength [] ∧
    level.judgeFrame [0x21, 0, 3, 0, 0, 0, 2, 0xDA] = .answer .badParameter [2] ∧
    level.judgeFrame [0x51, 0, 0, 0, 0xAF] = .request .readClock ∧
    State.reset.judgeFrame [0x20, 0, 2, 0, 0, 0, 0xDE] = .answer .noPlan [] := by decide +kernel

/-! ### Requests -/

/-- 03, worked sequence: the free-slot list 4, 9, 2 with slot 4 at generation 5, the booking sequence 880, the clock 5000. -/
def booking : State :=
  { level.modSlot 4 (fun x => { x with generation := 5 }) with
    freeSlots := [4, 9, 2], bookingSeq := 880, clock := 5000 }

/-- BOOK K1 takes slot 4 at a bay; here the credential has an entry of class FLEET (R48). -/
def booked : State := (booking.bookAt (booking.wouldBe { book with credential := 0x3A00000017, wait := 0 }) 1).1

theorem test_book_holds :
    (booked.record 4).map (fun r => (r.state, r.bay, r.seq, r.cls)) = some (.held, some 1, 880, .fleet) ∧
    booked.freeSlots = [9, 2] ∧ booked.bookingSeq = 881 ∧ booked.deadlines = [⟨.holdEnd, .slot 4, 5900⟩] ∧
    (booked.feeder 0).pledge = 14 ∧ booked.counter .bookingsAccepted = 1 ∧ booked.ticket 4 = 5124 := by decide +kernel

/-- 03, worked sequence, clock 5010: BOOK K2 WAITING with wait limit 1200. -/
def queued : State := ({ booked with clock := 5010 }.bookWaiting (booked.wouldBe { book with wait := 1200 })).1

theorem test_book_waits :
    (queued.record 9).map (fun r => (r.state, r.seq)) = some (.waiting, 881) ∧ queued.normalList = [9] ∧
    queued.highList = [] ∧ queued.deadlines = [⟨.holdEnd, .slot 4, 5900⟩, ⟨.waitEnd, .slot 9, 6210⟩] ∧
    queued.bookingSeq = 882 := by decide +kernel

/-- R62: a HELD record's new hold seconds restart its HOLD_END. -/
theorem test_amend_restarts_the_hold :
    ((bound .held .held [⟨.holdEnd, .slot 0, 1900⟩]).amend { amend with holdPresent := 1, hold := 60 }).1.deadlines =
      [⟨.holdEnd, .slot 0, 1060⟩] := by decide +kernel

/-- R65: the retired slot joins the tail, one generation on; its bay is FREE again. -/
def cancelled : State := ((bound .held .held).cancel 0).1

theorem test_cancel_of_a_held_record :
    (cancelled.slot 0).record = none ∧ (cancelled.slot 0).generation = 1 ∧ cancelled.freeSlots.getLast? = some 0 ∧
    (cancelled.bay 0).state = .free ∧ (cancelled.bay 0).aspect = .available ∧ (cancelled.feeder 0).pledge = 0 := by
  decide +kernel

/-- R66: RELEASE of an OVERSTAY record blocks its bay. -/
def released : State := ((bound .overstay .overstay).release 0).1

theorem test_release_of_an_overstay :
    (released.slot 0).lastOutcome = some .released ∧ (released.bay 0).state = .blocked ∧
    (released.bay 0).bound = none := by decide +kernel

/-- R67: the record of a HELD record's ticket opens with ticket 0 and state HELD. -/
theorem test_query_reservation :
    look (served (.queryReservation 0) (bound .held .held)) (fun t => (t.port.reply.map fun f => (f.drop 6).take 3)) =
      some (some [0, 0, 2]) ∧
    look (served (.queryReservation 1024) (bound .held .held)) (fun t => t.port.reply.map (·.getD 1 0)) =
      some (some 0x10) := by decide +kernel

/-- R68. -/
theorem test_find_credential :
    look (served (.findCredential 7) (bound .held .held)) (fun t => t.port.reply.map fun f => (f.drop 6).take 5) =
      some (some [0, 0, 2, 0, 0]) := by decide +kernel

/-- R57: a FREE slot's entry gives its retired ticket, 63 × 1024, and its outcome. -/
def listed : State := level.modSlot 0 fun x => { x with mark := true, lastOutcome := some .noShow }

theorem test_list_changes :
    listed.changeEntry 0 = [0, 0xFC, 1, 4, 0xFF, 0xFF] ∧ ((listed.clearMarks [0]).slot 0).mark = false := by
  decide +kernel

theorem test_query_bay :
    look (served (.queryBay 1) level) (fun t => t.port.reply.map fun f => (f.drop 4).take 11) =
      some (some [1, 0, 0, 0, 0, 14, 0, 220, 0, 1, 0]) := by decide +kernel

theorem test_set_bay_service :
    ((State.serviceOut 0 level).1.bay 0).state = .outOfService ∧
    ((State.serviceOut 0 level).1.bay 0).reason = some .operator ∧
    look (served (.setBayServiceIn 0) (bay0 level .outOfService (some .operator))) (fun t => (t.bay 0).returnRequested) =
      some true := by decide +kernel

/-- R43, R136: X_f falls by the stranded grant. -/
def stranded : State :=
  (level.modGrant 0 fun g => { g with stranded := 40 }).modFeeder 0 fun x => { x with stranded := 50 }

theorem test_clear_stranded :
    stranded.mayClearStranded 0 = true ∧ ((stranded.clearStrandedGrant 0).grant 0).stranded = 0 ∧
    ((stranded.clearStrandedGrant 0).feeder 0).stranded = 10 := by decide +kernel

/-! ### Plans -/

/-- 12.3: the bytes of a plan with one feeder and one bay: 44 + 9 + 9 bytes. -/
def planBytes : List Byte :=
  le 2 1000 ++ [0, 0, 0, 0, 3] ++ le 2 90 ++ le 2 600 ++ [0] ++ le 2 900 ++ le 2 600 ++ le 4 3600 ++ [5, 5, 5, 5] ++
  List.replicate 16 0 ++ [1] ++ ([0] ++ le 2 800 ++ le 2 0 ++ le 2 230 ++ le 2 180) ++ le 2 1 ++
  (le 2 0 ++ [0, 0, 0] ++ le 2 14 ++ le 2 220) ++ [0]

theorem test_plan_bytes :
    planBytes.length = 62 ∧ (readPlan planBytes).firstFault = none ∧
    (readPlan (planBytes.dropLast)).firstFault = some (1, 0) ∧
    (readPlan (planBytes.set 6 4)).firstFault = some (2, 0) ∧ (readPlan (planBytes.set 26 2)).firstFault = some (3, 1) ∧
    (readPlan (planBytes.set 41 16)).firstFault = some (4, 0) ∧ (readPlan (planBytes.set 57 9)).firstFault = some (6, 0) := by
  decide +kernel

/-- R13, R15: the bay of a first plan is added OUT_OF_SERVICE(UNHEARD), and its lane polls it. -/
def planned : State :=
  State.settleBay (readPlan planBytes).plan { State.reset with plan := some (readPlan planBytes).plan } 0

theorem test_first_plan :
    (planned.bay 0).state = .outOfService ∧ (planned.bay 0).reason = some .unheard ∧
    (planned.bay 0).place = some (place 0) ∧ ((planned.startPoll 0 0).lane 0).sent.take 2 = [0, 1] := by
  decide +kernel

theorem test_load_plan_segments :
    look (served (.loadPlanFirst [1, 2]) level) (fun t => (t.staged, t.port.sequence)) = some ([1, 2], some 1) ∧
    look (served (.loadPlanMiddle [3]) { level with staged := [1, 2], port := { sequence := some 1 } })
      (fun t => (t.staged, t.port.sequence)) = some ([1, 2, 3], some 2) := by decide +kernel

/-! ### Site requests -/

theorem test_query_feeder :
    look (served (.queryFeeder 0) level) (fun t => t.port.reply.map fun f => (f.drop 4).take 3) = some (some [0, 0x20, 3]) ∧
    look (served (.queryFeeder 1) level) (fun t => t.port.reply.map (·.getD 1 0)) = some (some 0x11) := by decide +kernel

/-- 08, worked sequence, clock 22100: 300 again for 900 s moves the end and takes no run. -/
def curtailed : State :=
  { level with clock := 22100, curtailment := 300, deadlines := [⟨.curtailEnd, .curtailment, 22600⟩] }

theorem test_curtail :
    (State.curtail 300 900 curtailed).1.deadlines = [⟨.curtailEnd, .curtailment, 23000⟩] ∧
    (State.curtail 0 0 level).1.deadlines = [] ∧
    (State.curtail 0 0 level).2.body = [0, 0, 0xE8, 3, 0, 0, 0, 0, 0, 0, 0, 0, 0, 0, 0, 0] := by decide +kernel

/-- 06, worked sequence, steps 1 and 5: the clock jumps to 9400 past slot 0's HOLD_END at 9100 and short of 9800. -/
def jumped : State × Answer :=
  { bound .held .held [⟨.holdEnd, .slot 0, 9100⟩, ⟨.waitEnd, .slot 5, 9800⟩] with clock := 9000 }.setClock 9400

theorem test_set_clock :
    jumped.1.clock = 9400 ∧ jumped.1.deadlines = [⟨.waitEnd, .slot 5, 9800⟩] ∧
    (jumped.1.slot 0).lastOutcome = some .noShow ∧ (jumped.1.bay 0).state = .free ∧
    jumped.2 = ⟨.ok, [0xB8, 0x24, 0, 0, 1, 0]⟩ := by decide +kernel

theorem test_clock :
    level.readClock.body = [0xE8, 3, 0, 0, 0, 0, 0, 0, 0, 0, 0] ∧ (waiting.advanceClock 1599).2 = 0 ∧
    (((waiting.advanceClock 1600).1).slot 0).lastOutcome = some .waitExpired ∧
    (waiting.advanceClock 1600).1.counter .waitExpiries = 1 := by decide +kernel

theorem test_notices :
    look (served (.setNoticeMask 0x3E) { level with notices := { level.notices with status := 1 } })
      (fun t => (t.notices.mask, t.notices.lineLow)) = some (0x3E, true) ∧
    look (served .readNotices { level with notices := { level.notices with status := 0x13 } }) (·.notices.status) =
      some 1 ∧
    look (served (.setChangeThreshold 64) level) (·.notices.threshold) = some 64 := by decide +kernel

theorem test_counters :
    look (served (.snapshotCounters 1) (level.bump .noShows)) (fun t => (t.snapshot[8], t.counters[8])) = some (1, 0) ∧
    look (served .readCounters { level with snapshot := level.snapshot.set 8 258 })
      (fun t => t.port.reply.map fun f => (f.drop 36).take 4) = some (some [2, 1, 0, 0]) := by decide +kernel

/-- R187; R45: at a soft reset an EMPTY bay becomes FREE and an OCCUPIED one IDENTIFYING for 90 s. -/
theorem test_resets :
    look (exec .hardwareReset { level with pending := [.secPulse] }) (fun t => (t.plan.isSome, t.pending)) =
      some (false, [.secPulse]) ∧
    ((bay0 level .blocked).resetBay 0).deadlines = [] ∧ (((bay0 level .blocked).resetBay 0).bay 0).state = .free ∧
    ((level.modBay 0 fun x => { x with occupancy := .occupied }).resetBay 0).deadlines =
      [⟨.identifyEnd, .bay 0, 1090⟩] := by decide +kernel

/-! ### Reports -/

/-- A report of a bay: OCCUPIED or EMPTY, a credential or none, a plug state; nothing metered. -/
def said (occupancy : OccupancyCode) (cred : Option Credential) (plug : PlugState) : Report :=
  ⟨0, occupancy, cred, plug, false, 0, 0, 0, 3⟩

/-- 02, worked sequence, clock 1200: OCCUPIED at a HELD bay. -/
def parked : State :=
  State.stage2 { bound .held .held [⟨.holdEnd, .slot 0, 1900⟩] with clock := 1200 } 0 (said .occupied none .unplugged)

theorem test_arrival_keeps_the_hold :
    (parked.bay 0).state = .identifying ∧ (parked.bay 0).keptHold = true ∧ (parked.bay 0).aspect = .inUse ∧
    parked.deadlines = [⟨.identifyEnd, .bay 0, 1290⟩] := by decide +kernel

/-- 02, worked sequence, clock 1230: the credential of the kept hold, stay limit 3600. -/
def arrived : State := State.stage3 { parked with clock := 1230 } 0 (said .occupied (some 7) .plugged)

theorem test_matched_arrival :
    (arrived.bay 0).state = .engaged ∧ (arrived.record 0).map (·.state) = some .engaged ∧
    arrived.deadlines = [⟨.stayEnd, .slot 0, 4830⟩] ∧ arrived.counter .arrivalsMatched = 1 ∧
    (arrived.bay 0).credential = some 7 := by decide +kernel

/-- 02, worked sequence, clock 1230, stage 4: the session starts with number 501. -/
def started : State × Bool := State.stage4 { arrived with sessionSeq := 501 } 0 (said .occupied (some 7) .plugged) true

theorem test_session_starts :
    (started.1.bay 0).state = .charging ∧ (started.1.record 0).map (·.session) = some (some 501) ∧
    started.1.counter .sessionsStarted = 1 ∧ started.2 = true ∧ (started.1.bay 0).plug = .plugged := by decide +kernel

/-- 02, worked sequence, clock 3000, stage 5: the stop flag ends session 501, a STOP is queued, grace runs 600 s. -/
def stopped : State × Bool :=
  State.stage5 { started.1 with clock := 3000 } 0 { said .occupied (some 7) .plugged with stop := true }

theorem test_stop_ends_the_session :
    (stopped.1.bay 0).state = .engaged ∧ (stopped.1.record 0).map (·.sessionDone) = some true ∧
    stopped.1.deadlines = [⟨.graceEnd, .bay 0, 3600⟩, ⟨.stayEnd, .slot 0, 4830⟩] ∧
    (stopped.1.grant 0).outstanding.map (·.flag) = some .stop := by decide +kernel

/-- 02, worked sequence, clocks 3600 to 3701: overstay, a disagreeing EMPTY, the departure. -/
def overstayed : State := State.graceExpires { stopped.1 with clock := 3600, deadlines := [⟨.stayEnd, .slot 0, 4830⟩] } 0
def disagreed : State := State.stage2 overstayed 0 (said .empty none .unplugged)
def departed : State :=
  State.stage2 (disagreed.modBay 0 fun x => { x with plug := .unplugged }) 0 (said .empty none .unplugged)

theorem test_overstay_and_departure :
    (overstayed.bay 0).state = .overstay ∧ overstayed.deadlines = [] ∧ overstayed.counter .overstays = 1 ∧
    (disagreed.bay 0).occupancyHeld = true ∧ disagreed.counter .detectorDisagree = 1 ∧ (departed.bay 0).state = .free ∧
    (departed.slot 0).lastOutcome = some .overstayed ∧ (departed.bay 0).occupancy = .empty := by decide +kernel

/-- R195, 12.5: a payload byte by byte: demand 300, metered 200, grant in force 513, aspect 4, a credential of 0x3A00000017. -/
theorem test_report_payload :
    readReport [0, 9, 1, 0x17, 0, 0, 0, 0x3A, 7, 2, 0x2C, 1, 200, 0, 1, 2, 4] =
      ⟨0, .detectorFault, some 0x3A00000017, .postFault, true, 300, 200, 513, 4⟩ := by decide +kernel

/-- 09, worked sequence "a post that will not keep its grant", reports 1, 2 and 11. -/
def drawing (mismatch resends : Nat) : State :=
  (level.modGrant 0 fun g => { g with acknowledged := 200 }).modUnit 0 fun u => { u with mismatch := mismatch, resends := resends }

theorem test_verify :
    (((drawing 0 0).verify 0 180).1.unit 0).mismatch = 1 ∧
    (((drawing 1 0).verify 0 180).1.unit 0).resends = 1 ∧
    (((drawing 1 0).verify 0 180).1.grant 0).outstanding = some ⟨200, .stop, false⟩ ∧
    (((drawing 1 4).makeFaulty 0 200).grant 0).stranded = 200 ∧
    (((drawing 1 4).makeFaulty 0 200).bay 0).reason = some .postFault := by decide +kernel

/-! ### The lane -/

/-- 09, worked sequence "a lane through a loss": lane 1, its four entries, every unit ACTIVE. -/
def lane1 : State :=
  { State.reset with
    units := (State.reset.units.set 130 { link := .active, countdown := 3 }).set 129 { link := .active, countdown := 3 }
    lanes := State.reset.lanes.set 1
      { queue := [⟨130, none, false, false⟩, ⟨131, some ⟨200, .plain, false⟩, false, false⟩,
          ⟨129, some ⟨0, .stop, true⟩, false, false⟩, ⟨132, some ⟨150, .plain, false⟩, false, false⟩]
        cursor := some 1 } }

/-- Exchange 1, and exchange 2 as it is chosen when the first has been acknowledged. -/
def exchange1 : State := lane1.chooseNext 1
def exchange2 : State := (exchange1.freeLine 1 true).chooseNext 1

theorem test_lane_chooses :
    ((exchange1.lane 1).line.map fun x => (x.bay, x.order.map (·.grant))) = some (129, some 0) ∧
    (exchange1.lane 1).sent.take 6 = [1, 2, 0, 0, 2, 0] ∧ (exchange2.lane 1).line.map (·.bay) = some 130 ∧
    (exchange2.lane 1).orderCount = 2 ∧ (exchange2.lane 1).queue.map (·.bay) = [130, 131, 132] := by decide +kernel

/-- Exchanges 2 and 3: missing replies, SILENT with countdown 2, then 1; the third failure makes the unit LOST. -/
theorem test_failures :
    ((exchange2.exchangeFailed 130).unit 130).countdown = 2 ∧
    (((exchange2.exchangeFailed 130).exchangeFailed 130).unit 130) = { link := .silent, countdown := 1 } ∧
    ((exchange2.unit 130).failed.failed.failed).link = .lost ∧
    (exchange2.exchangeFailed 130).counter .linkFailures = 1 := by decide +kernel

/-- R156: the ACK that answers exchange 1 echoes grant 0 and the aspect. R133: a pending 150 below an acknowledged 200 is queued. -/
theorem test_acknowledge :
    ((((drawing 0 0).modGrant 0 fun g => { g with pending := some ⟨150, .plain⟩ }).settlePending 0).grant 0).outstanding =
      some ⟨150, .plain, true⟩ ∧
    judgeReply ⟨129, 5, some ⟨0, .stop, .dark, false, true⟩, false, false⟩ (linkFrame 1 0x82 [0, 0, 0]) = none ∧
    judgeReply ⟨129, 5, some ⟨0, .stop, .dark, false, true⟩, false, false⟩ (linkFrame 1 0x82 [0, 0, 1]) = some .echo ∧
    judgeReply ⟨129, 5, none, false, false⟩ [] = some .missingReply := by decide +kernel

/-- R156: a frame outside an exchange changes nothing. -/
theorem test_late_frame (s : State) : exec (.lateFrame 0 [1, 2, 3]) s = .next s := rfl

/-! ### Reading the fixtures, and searching them -/

theorem level_record (i : SlotNo) : level.record i = none := by simp [level, State.record, State.slot, State.reset]

theorem slot0_record (r : Reservation) (i : SlotNo) : (slot0 level r).record i = if i = 0 then some r else none := by
  simp only [slot0, State.record, State.slot, State.modSlot, level, State.reset, Vector.getElem_set, Vector.getElem_replicate]
  by_cases h : i = 0
  · subst h; rfl
  · rw [if_neg h, if_neg (fun e => h (Fin.ext e.symm))]

theorem level_bay (b : BayNo) (h : 2 ≤ b.val) : level.bay b = {} := by
  simp only [level, State.bay, State.reset, Vector.getElem_set, Vector.getElem_replicate]
  rw [if_neg (by omega), if_neg (by omega)]

theorem findLive_none {s : State} {c : Credential} (h : ∀ i r, s.record i = some r → r.credential ≠ c) :
    s.findLive c = none := by
  unfold State.findLive
  rw [List.find?_eq_none]
  intro i _ e
  cases hr : s.record i with
  | none => rw [hr] at e; cases e
  | some r => rw [hr] at e; exact h i r hr (by simpa using e)

theorem findLive_slot0 {s : State} {r : Reservation} (h : ∀ i, s.record i = if i = 0 then some r else none) :
    s.findLive r.credential = some 0 := by
  have hd : allSlots = 0 :: (List.finRange 1024).tail := by decide +kernel
  unfold State.findLive
  rw [hd, List.find?_cons_of_pos]
  rw [h 0, if_pos rfl]
  simp

/-- Selection among the bays 0 and 1 alone. -/
theorem select_of {s : State} {c : Claim} (h : ∀ b : BayNo, 2 ≤ b.val → (s.bay b).place = none) :
    s.select c = ([0, 1].filter (s.placementTest c)).foldl (fun best b =>
      match best with
      | some x => if s.ranksAhead c b x then some b else some x
      | none => some b) none := by
  have hd : allBays = 0 :: 1 :: (List.finRange 512).drop 2 := by decide +kernel
  have ht : ((List.finRange 512).drop 2).filter (s.placementTest c) = [] := by
    rw [List.filter_eq_nil_iff]
    intro b hb e
    have hv : 2 ≤ b.val := by
      obtain ⟨k, hk, rfl⟩ := List.getElem_of_mem hb
      simp only [List.getElem_drop, List.getElem_finRange]
      simp
    simp [State.placementTest, State.candidate, h b hv] at e
  have hf : allBays.filter (s.placementTest c) = [0, 1].filter (s.placementTest c) := by
    simp only [hd, List.filter_cons, List.filter_nil, ht]
  exact congrArg (List.foldl _ none) hf

/-- No bay but 0 and 1 is planned. -/
def Far (s : State) : Prop := ∀ b : BayNo, 2 ≤ b.val → (s.bay b).place = none

theorem far_level : Far level := fun b h => by rw [level_bay b h]

theorem far_modBay {s : State} (h : Far s) (f : Bay → Bay) {x : BayNo} (hx : x.val < 2) : Far (s.modBay x f) := by
  intro b hb
  have e := h b hb
  simp only [State.bay, State.modBay] at e ⊢
  rw [Vector.getElem_set_ne _ _ (by omega)]
  exact e

theorem far_of {s t : State} (h : Far s) (e : t.bays = s.bays) : Far t := by
  intro b hb
  have := h b hb
  simp only [State.bay] at this ⊢
  rw [e]
  exact this

theorem record_of {s t : State} (e : t.slots = s.slots) (i : SlotNo) : t.record i = s.record i := by
  simp only [State.record, State.slot, e]

theorem far_bound (r : ResState) (b : BayState) (ds : List Deadline) (reason : Option Reason) :
    Far (bound r b ds reason) := by
  have h : Far (bay0 (slot0 level (record r (some 0))) b reason) :=
    far_modBay (far_of far_level (by unfold slot0 State.modSlot; rfl)) _ (by decide)
  exact far_of (far_modBay h (fun x => { x with bound := some 0 }) (x := 0) (by decide)) (by unfold bound; rfl)

theorem bound_record (r : ResState) (b : BayState) (ds : List Deadline) (reason : Option Reason) (i : SlotNo) :
    (bound r b ds reason).record i = if i = 0 then some (record r (some 0)) else none := by
  rw [← slot0_record]
  exact record_of (by unfold bound bay0 State.modBay; rfl) i

theorem waiting_record (i : SlotNo) : waiting.record i = if i = 0 then some (record .waiting none) else none := by
  rw [← slot0_record]
  exact record_of (by unfold waiting; rfl) i

/-! ### The hypotheses of the obligations, met -/

theorem witness_StepRunsTheFrontCommand : State.reset.pending = [] := rfl

theorem witness_WellFormedRequestFramesAreTaken :
    (∃ f, requestFrame (.queryBay 511) = some f) ∧ (Instr.queryBay 511).wellFormed = true ∧
    needsPlan (.queryBay 511) = true ∧ level.plan = some plan ∧ level.port.state = .ready := by
  refine ⟨⟨_, rfl⟩, ?_, rfl, rfl, rfl⟩
  decide

/-- The sum of a frame's bytes and whether its length is what its length field says. -/
def sumOf (bytes : List Byte) : Nat := (bytes.map (·.toNat)).sum % 256
def lengthOf (bytes : List Byte) : Nat := (bytes.getD 2 0).toNat + 256 * (bytes.getD 3 0).toNat

theorem witness_FailingFramesAreAnsweredInOrder :
    level.port.state ≠ .busy ∧ 1024 < (List.replicate 1025 (0 : Byte)).length ∧
    ((1 :: List.replicate 1023 (0 : Byte)).length ≤ 1024 ∧ sumOf (1 :: List.replicate 1023 0) ≠ 0) ∧
    sumOf [] = 0 ∧
    (∀ f ∈ [portFrame 0x00 0 [], portFrame 0x51 4 [], portFrame 0x51 1 [], portFrame 0x51 3 [], portFrame 0x51 0 [0]],
      sumOf f = 0 ∧ 5 ≤ f.length ∧ lengthOf f ≤ 1016 ∧ f.length = lengthOf f + 5) ∧
    lengthOf (portFrame 0x51 0 [0]) ≠ 0 := by decide +kernel

theorem witness_FieldAndPlanChecksAreAnswered :
    requestCode (.queryBay 512) = some 0x20 ∧ (requestFrame (.queryBay 512)).isSome = true ∧ badField (.queryBay 512) ≠ 0 ∧
    requestCode (.queryBay 511) = some 0x20 ∧ (requestFrame (.queryBay 511)).isSome = true ∧ badField (.queryBay 511) = 0 ∧
    needsPlan (.queryBay 511) = true ∧ State.reset.plan = none ∧ State.reset.port.state ≠ .busy ∧
    (511 < 512 ∧ 512 ≤ 65535 ∧ 2 ≤ 255) := by
  refine ⟨rfl, rfl, ?_, rfl, rfl, ?_, rfl, rfl, ?_, ?_⟩ <;> decide

/-- The port holding a reply, READY and BUSY. -/
def replying : State := { State.reset with port := { state := .reply, reply := some [1, 2, 3] } }
def busy : State := { State.reset with port := { state := .busy } }

theorem witness_ReadsAndIgnoredTransactions :
    replying.port.state = .reply ∧ replying.port.reply = some [1, 2, 3] ∧ [1, 2, 3].length ≤ 3 ∧ 2 < [1, 2, 3].length ∧
    State.reset.port.state = .ready ∧ busy.port.state = .busy ∧ (0x00 : Byte) ≠ 0x01 ∧ (0x03 : Byte) ≠ 0x02 := by
  decide +kernel

theorem takes_asked (c : Instr) (s : State) : (asked c s).takes c := rfl

theorem witness_OwnersAnswerEveryRequest :
    requestCode (.queryBay 511) = some 0x20 ∧ level.port.request ≠ some (.queryBay 511) ∧
    (asked (.cancel 0) level).port.request ≠ some (.queryBay 511) ∧
    (asked (.queryBay 511) level).port.request = some (.queryBay 511) := ⟨rfl, nofun, nofun, rfl⟩

/-! ### Reservations -/

/-- Bay 1 BLOCKED; both bays BLOCKED. -/
def oneFree : State := bay0 level .free |>.modBay 1 fun x => { x with state := .blocked, aspect := .inUse }
def noneFree : State := bay0 oneFree .blocked

theorem far_oneFree : Far oneFree :=
  far_modBay (s := bay0 level .free) (far_modBay (s := level) far_level _ (by decide)) _ (by decide)

theorem far_noneFree : Far noneFree := far_modBay (s := oneFree) far_oneFree _ (by decide)

theorem findLive_level (c : Credential) : level.findLive c = none := findLive_none fun i r h => by
  rw [level_record] at h; cases h

theorem far_asked {s : State} (c : Instr) (h : Far s) : Far (asked c s) := far_of h rfl

theorem findLive_asked (c : Instr) (s : State) (k : Credential) : (asked c s).findLive k = s.findLive k := rfl

theorem resolve_asked (c : Instr) (s : State) (t : BitVec 16) : (asked c s).resolve t = s.resolve t := rfl

theorem witness_BookHoldsABay :
    let s := asked (.book book) oneFree
    s.takes (.book book) ∧ s.plan = some plan ∧ s.freeSlots = 0 :: (List.finRange 1024).tail ∧
    s.findLive book.credential = none ∧ (s.bay 0).place = some (place 0) ∧ (s.bay 0).Lawful ∧
    book.pinPresent = 0 ∧ s.select (s.wouldBe book).claim = some 0 := by
  refine ⟨rfl, rfl, by decide +kernel, findLive_level _, by decide +kernel, ?_, rfl, ?_⟩
  · unfold Bay.Lawful; decide +kernel
  · rw [select_of (far_asked _ far_oneFree)]; decide +kernel

/-- BOOK with bay 0, and with bay 511, pinned. -/
def pinned (n : BitVec 16) : BookReq := { book with pinPresent := 1, pin := n }

theorem witness_BookHoldsABay_pinned :
    let s := asked (.book (pinned 0)) oneFree
    s.takes (.book (pinned 0)) ∧ (pinned 0).pinPresent ≠ 0 ∧ (pinned 0).pin.toNat = (0 : BayNo).val ∧
    s.pinTest (s.wouldBe (pinned 0)).claim 0 = true := by
  refine ⟨rfl, by decide, rfl, by decide +kernel⟩

theorem witness_BookWaitsInLine :
    let q := { book with wait := 1 }
    let s := asked (.book q) noneFree
    s.takes (.book q) ∧ s.plan = some plan ∧ s.freeSlots = 0 :: (List.finRange 1024).tail ∧
    s.findLive q.credential = none ∧ s.record 0 = none ∧ q.pinPresent = 0 ∧ s.select (s.wouldBe q).claim = none ∧
    q.wait ≠ 0 := by
  refine ⟨rfl, rfl, by decide +kernel, findLive_level _, by decide +kernel, rfl, ?_, by decide⟩
  rw [select_of (far_asked _ far_noneFree)]; decide +kernel

theorem witness_BookRefusalsCreateNothing :
    (asked (.book book) { level with freeSlots := [] }).takes (.book book) ∧
    ((asked (.book book) (bound .held .held)).freeSlots ≠ [] ∧
      (asked (.book book) (bound .held .held)).findLive book.credential = some 0) ∧
    (noneFree.freeSlots ≠ [] ∧ noneFree.pinTest (noneFree.wouldBe (pinned 0)).claim 0 = false ∧
      noneFree.pinTest (noneFree.wouldBe (pinned 511)).claim 511 = false) ∧
    noneFree.select (noneFree.wouldBe { book with wait := 0 }).claim = none := by
  refine ⟨rfl, ⟨by decide +kernel, (findLive_asked _ _ _).trans (findLive_slot0 (bound_record _ _ _ _))⟩, ?_, ?_⟩
  · decide +kernel
  · rw [select_of far_noneFree]; decide +kernel

theorem resolve_bound (r : ResState) (b : BayState) (ds : List Deadline) (reason : Option Reason) :
    (bound r b ds reason).resolve 0 = .live 0 (record r (some 0)) := by
  cases r <;> cases b <;> rfl

theorem witness_AmendAppliesItsFieldsInOrder :
    (∀ q : AmendReq, (asked (.amend q) (bound .held .held)).takes (.amend q)) ∧
    (asked (.amend amend) (bound .held .held [⟨.holdEnd, .slot 0, 1900⟩])).resolve amend.ticket =
      .live 0 (record .held (some 0)) ∧ (record .held (some 0)).state = .held ∧
    ((bound .held .held [⟨.holdEnd, .slot 0, 1900⟩]).deadlineOf (.slot 0)).map (·.kind) = some .holdEnd ∧
    (asked (.amend amend) (bound .charging .charging)).resolve amend.ticket = .live 0 (record .charging (some 0)) :=
  ⟨fun _ => rfl, rfl, rfl, by decide +kernel, rfl⟩

/-- Every field a HELD record takes, the mask of zone 7 alone; and the two fields a CHARGING record takes. -/
def amendAll : AmendReq := { amend with holdPresent := 1, hold := 77, capAction := 1, cap := 33, maskPresent := 1, mask := 0x80 }
def amendTwo : AmendReq := { amend with stayPresent := 1, stay := 600, capAction := 2 }

/-- The end of a stay of 600 s counted from arrived at 1230 is 1830. -/
def amendStay : AmendReq := { amend with stayPresent := 1, stay := 600 }

theorem witness_AmendStay :
    (asked (.amend amendStay) (bound .charging .charging)).takes (.amend amendStay) ∧
    (record .charging (some 0)).arrivedAt = some 1230 ∧ 1829 < min (1230 + amendStay.stay.toNat) 0xFFFFFFFF ∧
    min (1230 + amendStay.stay.toNat) 0xFFFFFFFF ≤ 1830 ∧
    (∀ r ∈ [ResState.engaged, .charging], ∀ b ∈ [BayState.engaged, .charging, .outOfService],
      let s := asked (.amend amendStay)
        { bound r b [] (if b = .outOfService then some .detectorFault else none) with clock := 1830 }
      s.clock = 1830 ∧ s.plan = some plan ∧ s.record 0 = some (record r (some 0)) ∧ (record r (some 0)).bay = some 0 ∧
        (s.bay 0).state = b ∧ (s.bay 0).bound = some 0 ∧ (s.bay 0).aspect = (s.bay 0).state.aspect ∧
        (s.bay 0).reason.isSome = ((s.bay 0).state == .outOfService) ∧ s.deadlineOf (.bay 0) = none) ∧
    ((bound .engaged .engaged [⟨.graceEnd, .bay 0, 1900⟩]).deadlineOf (.bay 0)).isSome = true :=
  ⟨rfl, rfl, by decide +kernel, by decide +kernel, by decide +kernel, by decide +kernel⟩

/-- A new mask of zone 0 alone, and of zone 7 alone. -/
def amendMask (m : ZoneMask) : AmendReq := { amend with maskPresent := 1, mask := m }

theorem far_waiting : Far waiting := far_of far_level (by unfold waiting slot0 State.modSlot; rfl)

/-- Slot 0 WAITING with no bay FREE. -/
def crowded : State := bay0 waiting .blocked |>.modBay 1 fun x => { x with state := .blocked, aspect := .inUse }

theorem far_crowded : Far crowded :=
  far_modBay (s := bay0 waiting .blocked) (far_modBay (s := waiting) far_waiting _ (by decide)) _ (by decide)

/-- A record HELD at bay 0 of zone 0, bay 1 FREE in zone 7; the record with no wait limit. -/
def zoned : State := (bound .held .held).modBay 1 fun x => { x with place := some { place 1 with zone := 7 } }
def impatient : Reservation := { record .held (some 0) with wait := 0 }

theorem far_zoned : Far zoned := far_modBay (s := bound .held .held) (far_bound _ _ _ _) _ (by decide)

theorem witness_AmendMask :
    (∀ m, (asked (.amend (amendMask m)) waiting).takes (.amend (amendMask m))) ∧
    waiting.resolve 0 = .live 0 (record .waiting none) ∧ waiting.select (record .waiting none).claim = some 0 ∧
    (waiting.bay 0).place = some (place 0) ∧ (waiting.bay 0).Lawful ∧
    crowded.resolve 0 = .live 0 (record .waiting none) ∧ crowded.select (record .waiting none).claim = none ∧
    (amendMask 1).mask.getLsbD (place 0).zone.val = true := by
  refine ⟨fun _ => rfl, rfl, ?_, by decide +kernel, ?_, rfl, ?_, by decide⟩
  · rw [select_of far_waiting]; decide +kernel
  · unfold Bay.Lawful; decide +kernel
  · rw [select_of far_crowded]; decide +kernel

/-- A HELD record whose bay lies outside the new mask: another bay, none with a wait limit, and none with no wait limit. -/
theorem witness_AmendMask_moving :
    (amendMask 0x80).mask.getLsbD (place 0).zone.val = false ∧
    (zoned.resolve 0 = .live 0 (record .held (some 0)) ∧ (zoned.bay 0).place = some (place 0) ∧
      zoned.select { { (record .held (some 0)) with zoneMask := 0x80 }.claim with leaving := some 0 } = some 1 ∧
      (zoned.bay 1).place = some { place 1 with zone := 7 } ∧ (zoned.bay 0).state = .held) ∧
    ((bound .held .held).resolve 0 = .live 0 (record .held (some 0)) ∧ (record .held (some 0)).wait ≠ 0 ∧
      (bound .held .held).select { { (record .held (some 0)) with zoneMask := 0x80 }.claim with leaving := some 0 } = none) ∧
    ((slot0 (bound .held .held) impatient).resolve 0 = .live 0 impatient ∧ impatient.wait = 0) := by
  refine ⟨by decide, ⟨rfl, by decide +kernel, ?_, by decide +kernel, by decide +kernel⟩, ⟨rfl, by decide, ?_⟩, rfl, rfl⟩
  · rw [select_of far_zoned]; decide +kernel
  · rw [select_of (far_bound _ _ _ _)]; decide +kernel

theorem witness_AmendAppliesItsFieldsInOrder_several :
    (amendAll.holdPresent ≠ 0 ∧ amendAll.stayPresent = 0 ∧ amendAll.capAction ≠ 0 ∧ amendAll.maskPresent ≠ 0) ∧
    (zoned.resolve amendAll.ticket = .live 0 (record .held (some 0)) ∧ (record .held (some 0)).wait ≠ 0 ∧
      (zoned.bay 0).place = some (place 0) ∧ (zoned.bay 0).Lawful) ∧
    ((slot0 (bound .held .held) impatient).resolve amendAll.ticket = .live 0 impatient ∧ impatient.state = .held ∧
      impatient.wait = 0 ∧ impatient.bay = some 0 ∧ ((slot0 (bound .held .held) impatient).bay 0).place = some (place 0) ∧
      amendAll.mask.getLsbD (place 0).zone.val = false ∧
      (slot0 (bound .held .held) impatient).select { { impatient with zoneMask := amendAll.mask }.claim with leaving := some 0 } =
        none) ∧
    (amendTwo.stayPresent ≠ 0 ∧ amendTwo.holdPresent = 0 ∧ amendTwo.maskPresent = 0 ∧
      (bound .charging .charging).resolve amendTwo.ticket = .live 0 (record .charging (some 0)) ∧
      ((bound .charging .charging).bay 0).place = some (place 0) ∧ ((bound .charging .charging).bay 0).Lawful) := by
  refine ⟨by decide, ⟨rfl, by decide, by decide +kernel, ?_⟩, ⟨rfl, rfl, rfl, rfl, by decide +kernel, by decide, ?_⟩,
    by decide, rfl, rfl, rfl, by decide +kernel, ?_⟩
  · unfold Bay.Lawful; decide +kernel
  · have h : Far (slot0 (bound .held .held) impatient) := far_of (far_bound .held .held [] none) rfl
    rw [select_of h]; decide +kernel
  · unfold Bay.Lawful; decide +kernel

theorem witness_StaleTicketsAndWrongStatesChangeNothing :
    (∀ i r, (asked (.cancel 0) level).resolve 0 ≠ .live i r) ∧
    (∀ c st, (asked c (bound st .held)).takes c ∧ (asked c (bound st .held)).resolve 0 = .live 0 (record st (some 0)) ∧
      (record st (some 0)).state = st) ∧ { amend with holdPresent := 1 }.ticket = 0 :=
  ⟨fun i r h => (by cases h), fun _ _ => ⟨rfl, (resolve_asked _ _ _).trans (resolve_bound _ _ _ _), rfl⟩, rfl⟩

theorem witness_CancelRetiresTheRecord :
    (∀ s, (asked (.cancel 0) s).takes (.cancel 0)) ∧ (asked (.cancel 0) waiting).resolve 0 = .live 0 (record .waiting none) ∧
    ∀ b ∈ [BayState.held, .identifying], (asked (.cancel 0) (bound .held b)).record 0 = some (record .held (some 0)) ∧
      ((asked (.cancel 0) (bound .held b)).bay 0).state = b :=
  ⟨fun _ => rfl, rfl, by decide +kernel⟩

theorem witness_ReleaseRetiresTheRecord :
    (asked (.release 0) (bound .engaged .engaged)).takes (.release 0) ∧
    (∀ st : ResState, ∀ b : BayState, ((bound st b).bay 0).bound = some 0 ∧ ((bound st b).bay 0).place = some (place 0) ∧
      ((bound st b).bay 0).state = b) ∧
    ((bound .engaged .engaged).bay 0).Lawful ∧ ((bound .overstay .overstay).bay 0).Lawful ∧
    ((bound .engaged .outOfService [] (some .operator)).bay 0).Lawful ∧ ((bound .charging .charging).bay 0).Lawful := by
  refine ⟨rfl, fun st b => by cases st <;> cases b <;> exact ⟨rfl, rfl, rfl⟩, ?_, ?_, ?_, ?_⟩ <;>
    (unfold Bay.Lawful; decide +kernel)

/-- Slot 0 FREE with outcome NO_SHOW at generation 1. -/
def retired : State := level.modSlot 0 fun x => { x with lastOutcome := some .noShow, generation := 1 }

theorem witness_QueryReservationResolvesTheTicket :
    (∀ t s, (asked (.queryReservation t) s).takes (.queryReservation t)) ∧ (bound .held .held).record 0 = some (record .held (some 0)) ∧ (0 : Fin 64) = ((bound .held .held).slot 0).generation ∧
    (retired.record 0 = none ∧ (retired.slot 0).lastOutcome = some .noShow ∧
      (0 : Fin 64).val = ((retired.slot 0).generation.val + 63) % 64) ∧
    (1 : Fin 64) ≠ ((bound .held .held).slot 0).generation ∧ (level.slot 0).lastOutcome = none ∧
    (63 : Fin 64).val ≠ ((retired.slot 0).generation.val + 63) % 64 ∧
    (waiting.normalList = [] ++ 0 :: [] ∧ (0 : SlotNo) ∉ waiting.highList ∧ (0 : SlotNo) ∉ level.normalList) :=
  ⟨fun _ _ => rfl, by decide +kernel⟩

theorem witness_FindCredentialFindsTheLiveRecord :
    (∀ s, (asked (.findCredential 7) s).takes (.findCredential 7)) ∧
    ((bound .held .held).record 0 = some (record .held (some 0)) ∧
      (record .held (some 0)).credential = 7 ∧ ∀ j x, (bound .held .held).record j = some x → x.credential = 7 → j = 0) ∧
    ∀ j x, level.record j = some x → x.credential ≠ 7 := by
  refine ⟨fun _ => rfl, ⟨rfl, rfl, fun j x h _ => ?_⟩, fun j x h => ?_⟩
  · rw [bound_record] at h
    by_contra hj
    rw [if_neg hj] at h
    cases h
  · rw [level_record] at h; cases h

theorem witness_ListChangesReturnsTheLowestMarks : (asked .listChanges listed).takes .listChanges ∧ (listed.slot 0).mark = true :=
  ⟨rfl, by decide +kernel⟩

theorem witness_RetirementTakesItsSteps :
    waiting.record 0 = some (record .waiting none) ∧ (record .waiting none).bay = none ∧
    (bound .held .held).record 0 = some (record .held (some 0)) ∧ (record .held (some 0)).bay = some 0 ∧
    ((bound .held .held).bay 0).place = some (place 0) ∧
    (0 : BitVec 16).toNat = (0 : SlotNo).val + 1024 * ((bound .held .held).slot 0).generation.val := by
  refine ⟨rfl, rfl, rfl, rfl, ?_, ?_⟩ <;> decide +kernel

/-! ### Selection, lists and arrivals -/

theorem witness_TheLongestMatchingPrefixDecides :
    longestPrefix entries 0x3A5001F2C7 = some (1, ⟨0x3A50000000, 12, .accessible, 0, 1, false⟩) ∧
    entries[0]? = some ⟨0x3A00000000, 8, .fleet, 0, 1, false⟩ ∧
    ∀ k, k < 8 → (0x3A5001F2C7 : Credential).getMsbD k = (0x3A00000000 : Credential).getMsbD k := by
  refine ⟨by decide +kernel, rfl, by decide +kernel⟩

theorem witness_TheTestsAreTheMasks : level.plan = some plan ∧ (level.bay 0).place = some (place 0) := ⟨rfl, rfl⟩

/-- Bay 0 an ACCESSIBLE one. -/
def accessible : State := level.modBay 0 fun x => { x with place := some { place 0 with kind := .accessible } }

theorem far_accessible : Far accessible := far_modBay (s := level) far_level _ (by decide)

theorem witness_SelectionReturnsTheFirstInRank :
    level.select (record .waiting none).claim = some 0 ∧ level.placementTest (record .waiting none).claim 1 = true ∧
    (level.bay 0).place = some (place 0) ∧ (level.bay 1).place = some (place 1) ∧
    accessible.select { record .waiting none with cls := .accessible }.claim = some 0 ∧
    (accessible.bay 0).place = some { place 0 with kind := .accessible } := by
  refine ⟨?_, by decide +kernel, rfl, rfl, ?_, rfl⟩
  · rw [select_of far_level]; decide +kernel
  · rw [select_of far_accessible]; decide +kernel

theorem witness_AnOfferServesOneCandidate :
    RatioSetting.bound .twoToOne = some 2 ∧ (1 : Nat) < 2 ∧
    (serveRatio .twoToOne level.ratioCount (level.highList.find? (level.fits 0)) (level.normalList.find? (level.fits 0))).1 =
      none ∧
    (serveRatio .twoToOne waiting.ratioCount (waiting.highList.find? (waiting.fits 0))
      (waiting.normalList.find? (waiting.fits 0))).1 = some 0 ∧
    waiting.record 0 = some (record .waiting none) ∧ waiting.plan = some plan ∧
    (waiting.bay 0).place = some (place 0) := by
  refine ⟨rfl, by decide, by decide +kernel, by decide +kernel, rfl, rfl, rfl⟩

theorem witness_EngagingBindsRecordAndBay :
    (bound .held .identifying).record 0 = some (record .held (some 0)) ∧ waiting.record 0 = some (record .waiting none) ∧
    ((bound .held .identifying).bay 0).place = some (place 0) ∧ (waiting.bay 0).place = some (place 0) :=
  ⟨rfl, rfl, rfl, rfl⟩

/-- Bay 0 identifying for its kept hold; bay 1 identifying with no hold while slot 0 is elsewhere. -/
def keeping : State := (bound .held .identifying).modBay 0 fun x => { x with keptHold := true }
def visited (s : State) : State := s.modBay 1 fun x => { x with state := .identifying, aspect := .inUse }

theorem witness_PresentationsAreJudged :
    level.plan = some plan ∧ (level.bay 0).state = .free ∧
    ((keeping.bay 0).state = .identifying ∧ (keeping.bay 0).keptHold = true ∧ keeping.findLive 7 = some 0 ∧
      (keeping.bay 0).bound = some 0) ∧
    (((visited (bound .engaged .engaged)).bay 1).state = .identifying ∧
      ((visited (bound .engaged .engaged)).bay 1).keptHold = false ∧
      (visited (bound .engaged .engaged)).findLive 7 = some 0 ∧
      (visited (bound .engaged .engaged)).record 0 = some (record .engaged (some 0))) ∧
    ((visited waiting).findLive 7 = some 0 ∧ (visited waiting).record 0 = some (record .waiting none)) := by
  refine ⟨rfl, rfl, ⟨rfl, rfl, ?_, rfl⟩, ⟨rfl, rfl, ?_, rfl⟩, ?_, rfl⟩
  · exact findLive_slot0 (r := record .held (some 0)) fun i =>
      (record_of (s := bound .held .identifying) (by unfold keeping State.modBay; rfl) i).trans (bound_record _ _ _ _ i)
  · exact findLive_slot0 (r := record .engaged (some 0)) fun i =>
      (record_of (s := bound .engaged .engaged) (by unfold visited State.modBay; rfl) i).trans (bound_record _ _ _ _ i)
  · exact findLive_slot0 (r := record .waiting none) fun i =>
      (record_of (s := waiting) (by unfold visited State.modBay; rfl) i).trans (waiting_record i)

/-- The walk-in: every condition met at bay 1, and one of them, a FREE slot beyond the reserve, not. -/
theorem witness_PresentationsAreJudged_walkIn :
    ((visited level).bay 1).state = .identifying ∧ (visited level).findLive 9 = none ∧
    longestPrefix plan.allotments 9 = none ∧ ((visited level).bay 1).place = some (place 1) ∧
    plan.zones[0].walkInOpen = true ∧ plan.zones[0].closed = false ∧ (place 1).kind = .standard ∧
    (∀ a ∈ plan.allotments, a.exclusive = false) ∧ ((visited level).feeder 0).pledge + (place 1).pmin ≤ 800 ∧
    plan.site.walkInReserve < (visited level).freeSlots.length ∧
    (visited level).freeSlots = 0 :: (List.finRange 1024).tail ∧
    ¬plan.site.walkInReserve < ({ visited level with freeSlots := [] } : State).freeSlots.length := by
  refine ⟨rfl, ?_, by decide +kernel, rfl, by decide +kernel, by decide +kernel, rfl, by decide +kernel, by decide +kernel,
    by decide +kernel, by decide +kernel, by decide +kernel⟩
  refine findLive_none fun i r h => ?_
  rw [record_of (s := level) (by unfold visited State.modBay; rfl), level_record] at h
  cases h

/-- Bay 1 of a state an ACCESSIBLE one. -/
def narrow (s : State) : State := s.modBay 1 fun x => { x with place := some { place 1 with kind := .accessible } }

/-- Cases 2, 5 and 7: a record HELD at bay 0 presented at bay 1; a credential with an entry for bay 1; another's at a kept hold. -/
theorem witness_PresentationsAreJudged_others :
    ((visited (bound .held .held)).findLive 7 = some 0 ∧
      (visited (bound .held .held)).record 0 = some (record .held (some 0)) ∧
      ((visited (bound .held .held)).bay 0).place = some (place 0) ∧ ((visited (bound .held .held)).bay 0).state = .held ∧
      (visited (bound .held .held)).presentationTest { (record .held (some 0)).claim with leaving := some 0 } 1 = true ∧
      (narrow (visited (bound .held .held))).presentationTest { (record .held (some 0)).claim with leaving := some 0 } 1 =
        false) ∧
    (longestPrefix plan.allotments 0x3A00000017 = some (0, ⟨0x3A00000000, 8, .fleet, 1, 1, false⟩) ∧
      (visited level).findLive 0x3A00000017 = none ∧
      (visited level).presentationTest ⟨.fleet, false, 0xFF, some 0, none⟩ 1 = true ∧ ¬(1 ≤ (0 : BayNo).val)) ∧
    (keeping.findLive 9 ≠ some 0 ∧ (keeping.bay 0).bound = some 0 ∧ keeping.record 0 = some (record .held (some 0))) := by
  refine ⟨⟨?_, rfl, rfl, rfl, by decide +kernel, by decide +kernel⟩, ⟨by decide +kernel, ?_, by decide +kernel, by decide⟩,
    ?_, rfl, rfl⟩
  · exact findLive_slot0 (r := record .held (some 0)) fun i =>
      (record_of (s := bound .held .held) (by unfold visited State.modBay; rfl) i).trans (bound_record _ _ _ _ i)
  · refine findLive_none fun i r h => ?_
    rw [record_of (s := level) (by unfold visited State.modBay; rfl), level_record] at h
    cases h
  · rw [findLive_none fun i r h => ?_]
    · simp
    · rw [record_of (s := bound .held .identifying) (by unfold keeping State.modBay; rfl), bound_record] at h
      by_cases hi : i = 0
      · rw [if_pos hi] at h
        cases h
        decide
      · rw [if_neg hi] at h
        cases h

/-- Slot 0 of `s` unbound from bay 0 with its HOLD_END gone, its wait limit `wait`. -/
def unbound (s : State) (wait : Nat) : State :=
  let t := s.modSlot 0 fun x => { x with record := some { record .held none with wait := wait } }
  { t.modBay 0 fun x => { x with bound := none, keptHold := false } with
    feeders := t.feeders.set 0 { t.feeder 0 with pledge := (t.feeder 0).pledge - 14 }
    deadlines := t.deadlines.filter fun d => d.owner != .slot 0 }

/-- Bay 0 out of service under a HELD record, bay 1 BLOCKED. -/
def losing : State := (bound .held .outOfService [] (some .operator)).modBay 1 fun x => { x with state := .blocked }

theorem far_losing : Far losing := far_modBay (s := bound .held .outOfService [] (some .operator)) (far_bound _ _ _ _) _ (by decide)

theorem far_unbound {s : State} (h : Far s) (wait : Nat) : Far (unbound s wait) :=
  far_of (far_modBay (s := s) h (fun x => { x with bound := none, keptHold := false }) (x := 0) (by decide))
    (by unfold unbound State.modSlot State.modBay; rfl)

theorem witness_RehomingEndsInOneOfThreeWays :
    losing.record 0 = some (record .held (some 0)) ∧ (record .held (some 0)).bay = some 0 ∧
    (losing.bay 0).place = some (place 0) ∧
    (unbound (bound .held .outOfService [] (some .operator)) 600).select (record .held (some 0)).claim = some 1 ∧
    (unbound losing 600).select (record .held (some 0)).claim = none ∧ 0 < (record .held (some 0)).wait ∧
    (unbound losing 0).select { record .held (some 0) with wait := 0 }.claim = none := by
  refine ⟨rfl, rfl, rfl, ?_, ?_, by decide, ?_⟩
  · rw [select_of (far_unbound (far_bound _ _ _ _) _)]; decide +kernel
  · rw [select_of (far_unbound far_losing _)]; decide +kernel
  · rw [select_of (far_unbound far_losing _)]; decide +kernel

/-! ### Queries and bays -/

theorem witness_QueriesAnswerAndChangeNothing :
    (∀ c s, (asked c s).takes c) ∧ (511 : BitVec 16).toNat = (511 : BayNo).val ∧
    ((0 : Byte).toNat = (0 : FeederNo).val ∧ (asked (.queryFeeder 0) level).plan = some plan ∧
      plan.feeders.find? (·.number == 0) = some ⟨0, 800, 0, 230, 180⟩) ∧
    ((15 : Byte).toNat = (15 : FeederNo).val ∧ plan.feeders.find? (·.number == 15) = none) :=
  ⟨fun _ _ => rfl, rfl, ⟨rfl, rfl, by decide +kernel⟩, rfl, by decide +kernel⟩

/-- A bay out of service under a CHARGING record (a session kept under DETECTOR_FAULT). -/
def kept : State := bound .charging .outOfService [] (some .detectorFault)

theorem witness_BayRequestsActByTheBaysState :
    (∀ c s, (asked c s).takes c) ∧ (0 : BitVec 16).toNat = (0 : BayNo).val ∧
    (level.bay 0).state = .free ∧ (level.bay 0).place ≠ none ∧ (level.bay 0).Lawful ∧
    ((bound .held .held).bay 0).state = .held ∧ ((bound .held .held).bay 0).Lawful ∧
    (bound .held .held).record 0 = some (record .held (some 0)) ∧
    (kept.bay 0).state = .outOfService ∧ (kept.bay 0).reason = some .detectorFault ∧ kept.charging 0 = true ∧
    (kept.bay 0).Lawful ∧ losing.charging 0 = false ∧ (losing.bay 0).state = .outOfService ∧ (losing.bay 0).Lawful ∧
    (noneFree.bay 0).state = .blocked ∧ (noneFree.bay 0).Lawful ∧
    (∀ reason ∈ [Reason.linkLost, .postFault], ((bay0 level .outOfService (some reason)).bay 0).state = .outOfService ∧
      ((bay0 level .outOfService (some reason)).bay 0).reason = some reason ∧
      ((bay0 level .outOfService (some reason)).bay 0).place = some (place 0)) ∧
    0 < (stranded.grant 0).stranded ∧ (stranded.bay 0).place = some (place 0) ∧ (level.grant 0).stranded = 0 := by
  refine ⟨fun _ _ => rfl, ?_⟩
  unfold Bay.Lawful
  decide +kernel

/-! ### Plans -/

/-- An open sequence of count `n` with `k` staged bytes. -/
def loading (n k : Nat) : State := { State.reset with staged := List.replicate k 0, port := { sequence := some n } }

theorem witness_SegmentsBuildTheStagedPlan :
    (∀ c s, (asked c s).takes c) ∧ ((loading 63 16383).port.sequence = some 63 ∧ (loading 63 16383).staged.length + [(0 : Byte)].length ≤ 16384) ∧
    (loading 64 0).port.sequence = some 64 ∧ 16384 < (loading 1 16384).staged.length + [(0 : Byte)].length ∧
    State.reset.port.sequence = none := by
  have h (n k : Nat) : (loading n k).staged.length = k := List.length_replicate
  exact ⟨fun _ _ => rfl, ⟨rfl, by rw [h]; decide⟩, rfl, by rw [h]; decide, rfl⟩

/-- `planBytes` with one allotment entry, and which of the seven checks of R9 a plan with its counts passes, field by field. -/
def fullBytes : List Byte := planBytes.dropLast ++ [1] ++ le 5 0x3A00000000 ++ [8, 2] ++ le 2 0 ++ [1, 0]
def passed (p : List Byte) : List Bool :=
  let v := fieldAt p
  [decide (v 40 1 = 1 ∧ v 50 2 = 1 ∧ v 61 1 = 1 ∧ p.length = 73),
    decide (v 2 1 ≤ 1 ∧ v 3 1 ≤ 15 ∧ v 4 1 ≤ 15 ∧ v 5 1 ≤ 1 ∧ v 6 1 ≤ 3 ∧ 10 ≤ v 7 2 ∧ v 7 2 ≤ 600 ∧ 60 ≤ v 9 2 ∧ v 9 2 ≤ 3600 ∧
      60 ≤ v 12 2 ∧ v 12 2 ≤ 7200 ∧ v 14 2 ≤ 14400 ∧ 600 ≤ v 16 4 ∧ v 16 4 ≤ 86400) &&
      [20, 21, 22, 23].all fun k => decide (1 ≤ v k 1 ∧ v k 1 ≤ 20),
    (List.range 8).all fun k => decide (v (24 + 2 * k) 1 ≤ 1 ∧ v (25 + 2 * k) 1 ≤ 1),
    decide (v 41 1 ≤ 15 ∧ v 42 2 ≤ 20000 ∧ v 44 2 ≤ 256 ∧ v 46 2 ≤ 256 ∧ v 48 2 ≤ 256 ∧ v 48 2 < v 46 2),
    decide (v 2 1 = 0 ∨ v 44 2 ≤ 256),
    decide (v 52 2 ≤ 511 ∧ v 54 1 ≤ 7 ∧ v 55 1 = v 41 1 ∧ v 56 1 ≤ 2 ∧ 10 ≤ v 57 2 ∧ v 57 2 ≤ 500 ∧ v 57 2 ≤ v 59 2 ∧
      v 59 2 ≤ 1500),
    decide (8 ≤ v 67 1 ∧ v 67 1 ≤ 40 ∧ v 62 5 % 2 ^ (40 - v 67 1) = 0 ∧ v 68 1 ≤ 2 ∧ v 71 1 = 1 ∧ v 72 1 ≤ 1 ∧ v 69 2 = v 52 2)]

/-- Two feeders of quota 200 in QUOTA mode: each record passes, their sum is above 256. -/
def quotaBytes : List Byte :=
  (planBytes.take 40).set 2 1 ++ [2] ++ ([0] ++ le 2 800 ++ le 2 200 ++ le 2 230 ++ le 2 180) ++
  ([1] ++ le 2 800 ++ le 2 200 ++ le 2 230 ++ le 2 180) ++ le 2 0 ++ [0]

theorem witness_TheSevenChecksOfAPlan :
    passed fullBytes = [true, true, true, true, true, true, true] ∧
    passed (fullBytes.set 61 0) = [false, true, true, true, true, true, true] ∧
    passed (fullBytes.set 6 4) = [true, false, true, true, true, true, true] ∧
    passed (fullBytes.set 26 2) = [true, true, false, true, true, true, true] ∧
    passed (fullBytes.set 42 255 |>.set 43 255) = [true, true, true, false, true, true, true] ∧
    passed (fullBytes.set 57 9) = [true, true, true, true, true, false, true] ∧
    passed (fullBytes.set 67 7) = [true, true, true, true, true, true, false] ∧
    (fieldAt quotaBytes 2 1 ≠ 0 ∧ fieldAt quotaBytes 40 1 = 2 ∧ quotaBytes.length = 44 + 9 * 2 ∧
      256 < fieldAt quotaBytes 44 2 + fieldAt quotaBytes 53 2) := by decide +kernel

/-- Bytes 0 to 39 of the plan staged as 63 segments. -/
def almost : State := { State.reset with staged := planBytes.take 40, port := { sequence := some 63 } }

theorem witness_ARefusedPlanChangesNothing :
    (∀ c s, (asked c s).takes c) ∧ (readPlan planBytes.dropLast).firstFault = some (1, 0) ∧ (readPlan planBytes).firstFault = none ∧
    (almost.port.sequence = some 63 ∧ almost.staged.length + (planBytes.drop 40).length ≤ 16384 ∧
      planBytes = almost.staged ++ planBytes.drop 40) ∧
    ((oneFree.bay 1).place = some (place 1) ∧ (readPlan planBytes).plan.bays.find? (·.number == 1) = none ∧
      (oneFree.bay 1).state = .blocked) ∧
    ((oneFree.bay 0).place = some (place 0) ∧ (readPlan planBytes).plan.bays.find? (·.number == 0) = some (place 0)) ∧
    (∀ b, (State.reset.bay b).place = none) ∧
    ((readPlan planBytes).plan.feeders.find? (·.number == 0) = some ⟨0, 800, 0, 230, 180⟩ ∧
      800 < ((State.reset.modFeeder 0 fun x => { x with pledge := 801 }).feeder 0).pledge) := by
  refine ⟨fun _ _ => rfl, by decide +kernel, by decide +kernel, ⟨rfl, by decide +kernel, by decide +kernel⟩,
    ⟨by decide +kernel, by decide +kernel, by decide +kernel⟩, ⟨by decide +kernel, by decide +kernel⟩, ?_,
    by decide +kernel, by decide +kernel⟩
  intro b
  rw [State.bay_reset']

theorem witness_APassedPlanIsApplied :
    (∀ c s, (asked c s).takes c) ∧ (readPlan planBytes).firstFault = none ∧ (∀ b, State.reset.conflicts (readPlan planBytes).plan b = false) ∧
    ∀ f, State.reset.pledgeAbove (readPlan planBytes).plan f = false := by
  refine ⟨fun _ _ => rfl, by decide +kernel, fun b => ?_, fun f => ?_⟩
  · have h : (State.reset.bay b).place = none := by rw [State.bay_reset']
    simp only [State.conflicts, State.changeOf, h]
    cases (readPlan planBytes).plan.bay b <;> rfl
  · have h : (State.reset.feeder f).pledge = 0 := by rw [State.feeder_reset']
    simp only [State.pledgeAbove, h]
    cases (readPlan planBytes).plan.feeders.find? (·.number == f) <;> simp

theorem witness_AnApplySettlesEachBay :
    (level.bay 1).place = some (place 1) ∧ (readPlan planBytes).plan.bays.find? (·.number == 1) = none ∧
    (level.bay 0).place = some (place 0) ∧ plan.bays.find? (·.number == 0) = some (place 0) ∧
    { plan with bays := [{ place 0 with feeder := 1 }] }.bays.find? (·.number == 0) = some { place 0 with feeder := 1 } ∧
    { plan with bays := [{ place 0 with pmin := 20 }] }.bays.find? (·.number == 0) = some { place 0 with pmin := 20 } ∧
    (level.grant 0).stranded ≤ (level.feeder 0).stranded ∧ (State.reset.bay 0).place = none ∧
    plan.bays.find? (·.number == 2) = none := by decide +kernel

/-! ### The clock and the expiries -/

/-- A pulse at 1599 and a SET CLOCK to 1600 reach the one entry, due at 1600; a SET CLOCK to 1599 reaches none. -/
theorem witness_TheClockAdvancesWithItsExpiryPass :
    ([⟨.holdEnd, .slot 0, 1900⟩, ⟨.waitEnd, .slot 1, 1900⟩].Pairwise fun (a b : Deadline) => a.due ≤ b.due) ∧
    (∀ c s, (asked c s).takes c) ∧ (999 : BitVec 32).toNat < level.clock ∧ (1000 : BitVec 32).toNat = level.clock ∧
    (waiting.deadlines = ⟨.waitEnd, .slot 0, 1600⟩ :: [] ∧ waiting.clock < (1600 : BitVec 32).toNat ∧
      min (({ waiting with clock := 1599 } : State).clock + 1) 0xFFFFFFFF = 1600 ∧
      (({ waiting with clock := 1600, deadlines := [] } : State).expire ⟨.waitEnd, .slot 0, 1600⟩).deadlines = []) ∧
    (waiting.clock < (1599 : BitVec 32).toNat ∧ ¬1600 ≤ 1599) ∧
    ∀ d ∈ ([⟨.holdEnd, .slot 0, 9⟩, ⟨.waitEnd, .slot 0, 9⟩, ⟨.stayEnd, .slot 0, 9⟩, ⟨.identifyEnd, .bay 0, 9⟩,
        ⟨.graceEnd, .bay 0, 9⟩, ⟨.curtailEnd, .curtailment, 9⟩] : List Deadline),
      ({ level with deadlines := [d] } : State).deadlineOf d.owner = some d := by
  refine ⟨by decide, fun _ _ => rfl, by decide +kernel⟩

theorem witness_SlotDeadlinesRetireTheRecord :
    (bound .held .held [⟨.holdEnd, .slot 0, 1900⟩]).record 0 = some (record .held (some 0)) ∧
    ((bound .held .held).bay 0).place = some (place 0) ∧ ((bound .held .held).bay 0).state = .held ∧
    ((bound .held .held).bay 0).Lawful ∧
    (bound .held .held [⟨.holdEnd, .slot 0, 1900⟩]).deadlineOf (.slot 0) = some ⟨.holdEnd, .slot 0, 1900⟩ ∧
    (bound .held .held).highList = [] ∧ (bound .held .held).normalList = [] ∧
    waiting.record 0 = some (record .waiting none) ∧ (record .waiting none).bay = none ∧
    waiting.deadlineOf (.slot 0) = some ⟨.waitEnd, .slot 0, 1600⟩ := by
  unfold Bay.Lawful
  decide +kernel

/-- A record at its STAY_END, the bay's GRACE_END running or not. -/
def staying (r : ResState) (b : BayState) (reason : Option Reason) : State := bound r b [⟨.stayEnd, .slot 0, 1830⟩] reason
def gracing : State := bound .engaged .engaged [⟨.graceEnd, .bay 0, 1700⟩, ⟨.stayEnd, .slot 0, 1830⟩]

theorem witness_StayEndExhaustsTheStay :
    (∀ r ∈ [ResState.engaged, .charging], ∀ b ∈ [BayState.engaged, .charging, .outOfService],
      (staying r b none).record 0 = some (record r (some 0)) ∧ ((staying r b none).bay 0).state = b ∧
      (staying r b none).deadlineOf (.slot 0) = some ⟨.stayEnd, .slot 0, 1830⟩ ∧
      (staying r b none).deadlineOf (.bay 0) = none) ∧
    gracing.deadlineOf (.slot 0) = some ⟨.stayEnd, .slot 0, 1830⟩ ∧ gracing.deadlineOf (.bay 0) ≠ none ∧
    ((staying .charging .charging none).bay 0).Lawful := by
  unfold Bay.Lawful
  decide +kernel

theorem witness_BayDeadlinesMoveTheBay :
    ((bound .held .identifying [⟨.identifyEnd, .bay 0, 1090⟩]).bay 0).state = .identifying ∧
    ((bound .held .identifying [⟨.identifyEnd, .bay 0, 1090⟩]).bay 0).Lawful ∧
    (bound .held .identifying [⟨.identifyEnd, .bay 0, 1090⟩]).deadlineOf (.bay 0) = some ⟨.identifyEnd, .bay 0, 1090⟩ ∧
    ((bound .held .identifying).bay 0).keptHold = false ∧
    (let s : State := { keeping with deadlines := [⟨.identifyEnd, .bay 0, 1090⟩] };
      (s.bay 0).state = .identifying ∧ (s.bay 0).keptHold = true ∧ (s.bay 0).Lawful ∧ (s.bay 0).bound = some 0 ∧
        s.record 0 = some (record .held (some 0)) ∧ s.deadlineOf (.bay 0) = some ⟨.identifyEnd, .bay 0, 1090⟩) ∧
    (gracing.bay 0).state = .engaged ∧ (gracing.bay 0).Lawful ∧ (gracing.bay 0).bound = some 0 ∧
    gracing.record 0 = some (record .engaged (some 0)) ∧
    gracing.deadlineOf (.bay 0) = some ⟨.graceEnd, .bay 0, 1700⟩ := by
  unfold Bay.Lawful
  decide +kernel

/-! ### Power -/

theorem witness_CurtailmentsStartAndEnd :
    (∀ c s, (asked c s).takes c) ∧ ((1 : BitVec 16) ≠ 0 ∧ 1 ≤ (86400 : BitVec 32).toNat ∧ (86400 : BitVec 32).toNat ≤ 86400) ∧
    curtailed.deadlineOf .curtailment = some ⟨.curtailEnd, .curtailment, 22600⟩ ∧
    level.deadlineOf .curtailment = none ∧ level.curtailment = 0 := ⟨fun _ _ => rfl, by decide +kernel⟩

theorem witness_BudgetsShareTheSiteExactly :
    [800, 500, 300].sum ≤ 1600 ∧ 1600 < [800, 500, 650].sum ∧ [800, 500, 650][2]? = some 650 := by decide

theorem witness_SessionsShareTheirFeedersBudget :
    (∀ x ∈ sessions, x.pmin ≤ x.cap) ∧ (sessions[3]?.map (·.bay)) = some 203 ∧
    ((shareSessions 80 sessions).map (·.served)) = [true, true, false, true] := by decide +kernel

/-- A bay's grant values by the rows of R131 and R132: an outstanding order of 200 or none, targets below, at and above it. -/
def granted (target : Nat) (order : Option GrantOrder) (queued : Bool) (pending heldBack : Option GrantValue) : State :=
  (bound .charging .charging).modGrant 0 fun g =>
    { g with
      target := target, acknowledged := 200, outstanding := order, startQueued := queued, pending := pending, heldBack := heldBack }

theorem witness_TargetsAreSettledAndGatesRelease :
    (∀ target ∈ [199, 200, 201], ∀ order ∈ [none, some ⟨200, .plain, false⟩, some ⟨150, .plain, true⟩], ∀ queued : Bool,
      ((granted target order queued none none).grant 0).outstanding = order ∧
        ((granted target order queued none none).grant 0).target = target ∧
        ((granted target order queued none none).grant 0).startQueued = queued ∧
        ((granted target order queued none none).grant 0).acknowledged = 200) ∧
    ((granted 0 none true (some ⟨199, .plain⟩) none).grant 0).pending = some ⟨199, .plain⟩ ∧
    ((granted 0 none true none (some ⟨300, .plain⟩)).grant 0).heldBack = some ⟨300, .plain⟩ ∧
    ((bound .charging .charging).bay 0).place = some (place 0) ∧ (place 0).feeder = 0 := by decide +kernel

theorem witness_AnAllocationRunStaysWithinItsBudgets :
    (bound .charging .charging).plan = some plan ∧ plan.feeders.find? (·.number == 0) = some ⟨0, 800, 0, 230, 180⟩ ∧
    ((bound .charging .charging).bay 0).place = some (place 0) ∧ ((bound .charging .charging).bay 0).bound = some 0 ∧
    (bound .charging .charging).record 0 = some (record .charging (some 0)) ∧
    ((bound .charging .charging).bay 1).place = some (place 1) ∧ (bound .charging .charging).charging 1 = false ∧
    plan.feeders.find? (·.number == 1) = none := by
  decide +kernel

/-- A feeder in a trim state with marks 539 and 421 and a load. -/
def trimming (st : TrimState) (step load : Nat) : State :=
  State.reset.modFeeder 0 fun x => { x with monitor := some { load := load, high := 539, low := 421, state := st, step := step } }

theorem witness_TrimMovesByTheTable :
    ∀ c ∈ [(TrimState.normal, 0, 540), (.normal, 0, 539), (.trimmed, 1, 420), (.trimmed, 3, 421), (.trimmed, 3, 539),
        (.trimmed, 1, 540), (.eased, 1, 420), (.eased, 3, 540), (.eased, 2, 540), (.eased, 1, 421), (.eased, 1, 539)],
      let m : Monitor := { load := c.2.2, high := 539, low := 421, state := c.1, step := c.2.1 }
      ((trimming c.1 c.2.1 c.2.2).feeder 0).monitor = some m ∧ m.Lawful := by
  unfold Monitor.Lawful
  decide +kernel

/-- A running session, its bay with an order outstanding or none. -/
def ordered : State :=
  (bound .charging .charging).modGrant 0 fun g => { g with outstanding := some ⟨200, .plain, false⟩ }

theorem witness_SessionsStartAndEnd :
    (bound .charging .charging).record 0 = some (record .charging (some 0)) ∧
    ((bound .charging .charging).bay 0).bound = some 0 ∧ ((bound .charging .charging).bay 0).state = .charging ∧
    (kept.bay 0).bound = some 0 ∧ kept.record 0 = some (record .charging (some 0)) ∧ (kept.bay 0).state ≠ .charging ∧
    (bound .charging .charging).plan = some plan ∧ level.plan = some plan ∧ (level.bay 0).bound = none ∧
    (((bound .engaged .engaged).bay 0).state = .engaged ∧ ((bound .engaged .engaged).bay 0).plug = .unplugged ∧
      (bound .engaged .engaged).record 0 = some (record .engaged (some 0)) ∧
      (slot0 (bound .engaged .engaged) { record .engaged (some 0) with stayExhausted := true }).record 0 =
        some { record .engaged (some 0) with stayExhausted := true }) ∧
    (((bound .charging .charging).modBay 0 fun x => { x with plug := .charging }).bay 0).plug = .charging ∧
    ((bound .charging .charging).bay 0).stop = false := by decide +kernel

/-! ### Reports and the lane -/

/-- Bay 0 of `s` last OCCUPIED, with a plug state. -/
def occupied (s : State) (plug : PlugState) : State := s.modBay 0 fun x => { x with occupancy := .occupied, plug := plug }

/-- A report with a fault code. -/
def faulting : Report := { said .occupied none .plugged with fault := 1 }

theorem witness_FaultsTakeTheBayOut :
    (∀ b ∈ [BayState.free, .held, .identifying, .blocked, .engaged, .charging, .overstay],
      ((bay0 level b).bay 0).place = some (place 0) ∧ ((bay0 level b).bay 0).state ≠ .unplanned ∧
        ((bay0 level b).bay 0).state ≠ .outOfService ∧ ((bay0 level b).bay 0).bound = none) ∧
    (∀ reason ∈ [Reason.unheard, .linkLost, .postFault, .detectorFault, .operator],
      ((bay0 level .outOfService (some reason)).bay 0).place = some (place 0) ∧
        ((bay0 level .outOfService (some reason)).bay 0).state = .outOfService ∧
        ((bay0 level .outOfService (some reason)).bay 0).reason = some reason) ∧
    ((keeping.bay 0).bound = some 0 ∧ keeping.record 0 = some (record .held (some 0)) ∧
      (bound .engaged .engaged).record 0 = some (record .engaged (some 0))) ∧
    faulting.fault ≠ 0 ∧ (said .occupied none .postFault).plug = .postFault ∧
    ((said .detectorFault none .plugged).fault = 0 ∧ (said .detectorFault none .plugged).occupancy = .detectorFault) ∧
    ((drawing 0 0).grant 0).stranded < max ((drawing 0 0).grant 0).acknowledged 180 := by decide +kernel

theorem witness_OccupancyMovesTheBay :
    level.plan = some plan ∧ (level.bay 0).occupancy = .empty ∧ (level.bay 0).state = .free ∧
    ((bound .held .held).bay 0).state = .held ∧ ((bound .held .held).bay 0).bound = some 0 ∧
    (((occupied noneFree .unplugged).bay 0).occupancy = .occupied ∧ ((occupied noneFree .unplugged).bay 0).plug = .unplugged ∧
      ((occupied noneFree .unplugged).bay 0).state = .blocked) ∧
    ((occupied (bound .engaged .engaged) .unplugged).record 0 = some (record .engaged (some 0)) ∧
      ((occupied (bound .engaged .engaged) .unplugged).bay 0).state = .engaged) ∧
    ((occupied (bound .overstay .overstay) .unplugged).record 0 = some (record .overstay (some 0)) ∧
      ((occupied (bound .overstay .overstay) .unplugged).bay 0).state = .overstay) ∧
    (((occupied (bound .held .identifying) .unplugged).bay 0).keptHold = false ∧
      ((occupied keeping .unplugged).bay 0).keptHold = true ∧ ((occupied keeping .unplugged).bay 0).state = .identifying ∧
      ((occupied keeping .unplugged).bay 0).bound = some 0 ∧
      (occupied keeping .unplugged).record 0 = some (record .held (some 0))) ∧
    (∀ r ∈ [ResState.engaged, .overstay], let s := occupied (bound r .outOfService [] (some .operator)) .unplugged
      (s.bay 0).state = .outOfService ∧ (s.bay 0).bound = some 0 ∧ s.record 0 = some (record r (some 0))) ∧
    (((occupied (bay0 level .outOfService (some .operator)) .unplugged).bay 0).bound = none ∧
      ((occupied (bay0 level .outOfService (some .operator)) .unplugged).bay 0).state = .outOfService) ∧
    ((occupied (bound .engaged .engaged) .plugged).bay 0).plug ≠ .unplugged := by decide +kernel

/-- A POLL of bay 0 on lane 0's line, and a report that brings nothing new but 100 metered. -/
def polling : State := level.modLane 0 fun x => { x with line := some ⟨0, 5, none, false, false⟩ }
def quiet : Report := ⟨0, .empty, none, .unplugged, false, 0, 100, 0, 1⟩

theorem witness_AReportIsTakenInItsStages :
    (polling.lane 0).line = some ⟨0, 5, none, false, false⟩ ∧
    judgeReply ⟨0, 5, none, false, false⟩ (reportFrame 0 quiet) = none ∧ (polling.bay 0).place = some (place 0) ∧
    (polling.unit 0).link.reachable = true ∧ (polling.bay 0).returnRequested = false ∧
    readReport (((reportFrame 0 quiet).drop 2).take 17) = quiet ∧ quiet.plug = (polling.bay 0).plug ∧
    quiet.stop = (polling.bay 0).stop ∧ quiet.demand = (polling.bay 0).demand ∧ (polling.bay 0).occupancy = .empty ∧
    (polling.bay 0).occupancyHeld = false ∧ (polling.bay 0).state = .free ∧ (polling.grant 0).outstanding = none ∧
    (polling.grant 0).stranded = 0 ∧ quiet.inForce = (polling.grant 0).acknowledged ∧
    quiet.aspect = (polling.bay 0).aspect.code ∧ (polling.feeder 0).monitor = some { high := 718, low := 562 } ∧
    0 - (polling.bay 0).metered + quiet.metered ≤ 718 ∧ (polling.unit 0).link = .active ∧
    ((said .occupied (some 9) .unplugged).cred = some 9 ∧ ((occupied level .unplugged).bay 0).occupancy = .occupied ∧
      ((occupied level .unplugged).bay 0).credential ≠ some 9) := by decide +kernel

/-- Bay 0 OUT_OF_SERVICE with a record in state `r` and return requested or not, a POLL of it on lane 0, its unit in a link state. -/
def returning (r : ResState) (reason : Reason) (requested : Bool) (link : LinkState) : State :=
  let s := ((bound r .outOfService [] (some reason)).modBay 0 fun x => { x with returnRequested := requested, occupancy := .occupied })
  (s.modUnit 0 fun u => { u with link := link }).modLane 0 fun x => { x with line := some ⟨0, 5, none, false, false⟩ }

theorem witness_FirstRepliesAndReturnsRederive :
    (∀ link ∈ [LinkState.unheard, .lost, .active, .silent], ∀ reason ∈ [Reason.unheard, .linkLost, .operator],
      ∀ requested : Bool, ∀ r ∈ [ResState.engaged, .charging, .overstay], let s := returning r reason requested link
        (s.lane 0).line = some ⟨0, 5, none, false, false⟩ ∧ (s.unit 0).link = link ∧ (s.bay 0).state = .outOfService ∧
          (s.bay 0).reason = some reason ∧ (s.bay 0).returnRequested = requested ∧ (s.bay 0).bound = some 0 ∧
          (s.bay 0).occupancy = .occupied ∧ s.record 0 = some (record r (some 0)) ∧ s.plan = some plan) ∧
    judgeReply ⟨0, 5, none, false, false⟩ (reportFrame 0 quiet) = none ∧
    (faulting.fault ≠ 0 ∧ quiet.fault = 0 ∧ quiet.plug ≠ .postFault ∧ quiet.occupancy ≠ .detectorFault) ∧
    ((level.bay 0).occupancy = .empty ∧ (level.bay 0).bound = none ∧ ((bound .engaged .engaged).bay 0).occupancy = .empty ∧
      ((bound .engaged .engaged).bay 0).bound = some 0 ∧ ((occupied level .unplugged).bay 0).bound = none ∧
      (level.bay 0).state ≠ .engaged) ∧
    ∀ exhausted done : Bool,
      let y := { record .engaged (some 0) with stayExhausted := exhausted, sessionDone := done }
      (slot0 (bound .engaged .engaged) y).record 0 = some y ∧ ((slot0 (bound .engaged .engaged) y).bay 0).state = .engaged ∧
        ((slot0 (bound .engaged .engaged) y).bay 0).bound = some 0 := by decide +kernel

theorem witness_StageEightVerifiesAndReturns :
    ((bay0 level .outOfService (some .postFault)).bay 0).reason = some .postFault ∧ (ordered.grant 0).outstanding ≠ none ∧
    (ordered.bay 0).state ≠ .outOfService ∧
    (∀ m ∈ [0, 1], ∀ n ∈ [3, 4], ((drawing m n).unit 0).mismatch = m ∧ ((drawing m n).unit 0).resends = n ∧
      ((drawing m n).grant 0).outstanding = none ∧ 180 ≠ ((drawing m n).grant 0).acknowledged ∧
      ((drawing m n).grant 0).acknowledged = 200 ∧ ((drawing m n).bay 0).state = .free ∧
      ((drawing m n).bay 0).bound = none) ∧
    (let s := (bay0 (drawing 1 4) .outOfService (some .operator));
      (s.bay 0).state = .outOfService ∧ (s.bay 0).reason ≠ some .postFault) ∧
    (let s := stranded.modGrant 0 fun g => { g with zeroAcked := true };
      0 < (s.grant 0).stranded ∧ (s.grant 0).zeroAcked = true ∧ (s.grant 0).acknowledged = 0 ∧ (s.grant 0).outstanding = none) ∧
    (stranded.grant 0).zeroAcked = false ∧ (stranded.bay 0).place = some (place 0) ∧
    ((polling.lane (laneOf 0)).line = some ⟨0, 5, none, false, false⟩ ∧ (level.lane (laneOf 0)).line = none ∧
      (level.lane (laneOf 0)).queue = [] ∧ (level.bay 0).aspect.code = 1) := by decide +kernel

theorem witness_ReplyFramesAreJudgedAndDecoded :
    (quiet.fault < 256 ∧ quiet.cred ≠ some 0 ∧ quiet.demand < 65536 ∧ quiet.metered < 65536 ∧ quiet.inForce < 65536 ∧
      quiet.aspect < 256) ∧
    let x : Exchange := ⟨0, 5, some ⟨200, .plain, .inUse, false, true⟩, false, false⟩
    judgeReply x [] = some .missingReply ∧ judgeReply x ((ackFrame 0 ⟨200, .plain, .inUse, false, true⟩).take 6) = some .crc ∧
    judgeReply x ((ackFrame 0 ⟨200, .plain, .inUse, false, true⟩).set 2 0) = some .crc ∧
    judgeReply x (linkFrame 1 0x82 [200, 0, 3]) = some .address ∧ judgeReply x (linkFrame 0 0x81 [200, 0, 3]) = some .kind ∧
    judgeReply x (linkFrame 0 0x82 [201, 0, 3]) = some .echo ∧ judgeReply x (linkFrame 0 0x82 [200, 0, 3] ++ [9]) = none := by
  decide +kernel

/-- The grant order of `ordered` on lane 0's line, with flags of the exchange and a pending target. -/
def ordering (removed dropped isGrant : Bool) (pending : Option GrantValue) : State :=
  (ordered.modGrant 0 fun g => { g with pending := pending }).modLane 0 fun x =>
    { x with line := some ⟨0, 5, some ⟨200, .plain, .inUse, false, isGrant⟩, removed, dropped⟩ }

theorem witness_AnAckSettlesTheOrder :
    (∀ removed dropped isGrant : Bool,
      ((ordering removed dropped isGrant none).lane 0).line =
        some ⟨0, 5, some ⟨200, .plain, .inUse, false, isGrant⟩, removed, dropped⟩ ∧
      judgeReply ⟨0, 5, some ⟨200, .plain, .inUse, false, isGrant⟩, removed, dropped⟩
        (ackFrame 0 ⟨200, .plain, .inUse, false, isGrant⟩) = none) ∧
    ∀ v ∈ [none, some ⟨199, .plain⟩, some ⟨200, .plain⟩, some ⟨200, .start⟩, some ⟨201, .plain⟩],
      ((ordering false false true v).grant 0).outstanding = some ⟨200, .plain, false⟩ ∧
      ((ordering false false true v).grant 0).pending = v := by decide +kernel

theorem witness_FailedExchangesSilenceTheUnit :
    (level.lane 0).line = none ∧ (polling.lane 0).line = some ⟨0, 5, none, false, false⟩ ∧
    ((level.modLane 0 fun x => { x with line := some ⟨0, 5, none, true, false⟩ }).lane 0).line =
      some ⟨0, 5, none, true, false⟩ ∧
    judgeReply ⟨0, 5, none, false, false⟩ [] ≠ none ∧ (polling.unit 0).link = .active ∧
    (State.reset.unit 0).link = .unheard ∧
    (∀ n ∈ [1, 2], ((polling.modUnit 0 fun _ => { link := .silent, countdown := n }).unit 0).countdown = n ∧
      ((polling.modUnit 0 fun _ => { link := .silent, countdown := n }).unit 0).link = .silent) ∧
    (polling.bay 0).place = some (place 0) ∧ (polling.bay 0).state = .free ∧
    ∀ reason ∈ [Reason.detectorFault, .postFault, .operator],
      ((bay0 polling .outOfService (some reason)).bay 0).reason = some reason := by decide +kernel

/-- Lane 0 of `level` after `n` orders in a row, with a cursor and a queue. -/
def choosing (n : Nat) (cursor : Option LaneAddr) (queue : List Entry) : State :=
  level.modLane 0 fun _ => { queue := queue, orderCount := n, cursor := cursor }

/-- An increase, then a decrease. -/
def upThenDown : List Entry := [⟨0, some ⟨200, .plain, false⟩, false, false⟩, ⟨1, some ⟨0, .stop, true⟩, false, false⟩]

theorem witness_ALaneChoosesItsNextExchange :
    (8 ≤ ((choosing 8 (some 0) upThenDown).lane 0).orderCount ∧
      ((choosing 8 (some 0) upThenDown).lane 0).cursor = some 0 ∧ ((choosing 8 (some 0) upThenDown).bay 1).place ≠ none) ∧
    (((choosing 7 none upThenDown).lane 0).orderCount < 8 ∧
      ((choosing 7 none upThenDown).lane 0).queue = [upThenDown[0]] ++ upThenDown[1] :: []) ∧
    ((choosing 7 none [⟨0, none, true, false⟩]).lane 0).queue = [⟨0, none, true, false⟩] ∧
    (((choosing 7 (some 1) []).lane 0).queue = [] ∧ ((choosing 7 (some 1) []).bay 0).place ≠ none) ∧
    (State.reset.lane 0).queue = [] ∧ ∀ a, (State.reset.bay (bayAt 0 a)).place = none := by
  refine ⟨by decide +kernel, by decide +kernel, by decide +kernel, by decide +kernel, rfl, fun a => ?_⟩
  rw [State.bay_reset']

theorem witness_OrdersJoinAndMerge :
    (∀ x ∈ upThenDown, x.bay = (0 : BayNo) ∧ x.onLine = false → x.grant ≠ none) ∧
    (let e : Entry := ⟨0, none, true, false⟩;
      [e] ++ upThenDown = [] ++ e :: upThenDown ∧ e.grant = none ∧
        ∀ y ∈ [] ++ upThenDown, y.bay = (0 : BayNo) ∧ y.onLine = false → y.grant ≠ none) ∧
    (∀ x ∈ ([⟨0, none, true, true⟩] : List Entry), ¬(x.bay = (0 : BayNo) ∧ x.onLine = false)) ∧
    (let e : Entry := ⟨0, none, true, false⟩;
      [e] ++ upThenDown = [] ++ e :: upThenDown ∧ e.bay = (0 : BayNo) ∧ e.onLine = false) ∧
    (level.unit 0).link = .active ∧ (State.reset.unit 0).link = .unheard := by decide +kernel

/-! ### Notices and invariants -/

theorem witness_NoticesAndCountersFollowTheirRules :
    (∀ c s, (asked c s).takes c) ∧
    (63 : Byte).toNat ≤ 63 ∧ 1 ≤ (1 : Byte).toNat ∧ (1 : Byte).toNat ≤ 64 ∧ (64 : Byte).toNat ≤ 64 :=
  ⟨fun _ _ => rfl, by decide⟩

theorem witness_ASoftResetKeepsThePlan :
    (∀ s, (asked .reset s).takes .reset) ∧
    ((bound .charging .charging).record 0 = some (record .charging (some 0)) ∧ (record .charging (some 0)).bay = some 0 ∧
      (bound .charging .charging).record 1 = none ∧ (level.bay 0).bound = none ∧ (level.bay 0).keptHold = false) ∧
    ((level.bay 0).state.inService = true ∧ (level.bay 0).occupancy = .empty ∧
      ((occupied level .plugged).bay 0).occupancy = .occupied ∧ ((occupied level .plugged).bay 0).state.inService = true ∧
      ((bay0 level .outOfService (some .operator)).bay 0).state.inService = false) ∧
    ((bound .charging .charging).feeder 0).pledge = (place 0).pmin ∧ level.plan = some plan ∧
    plan.feeders.find? (·.number == 0) = some ⟨0, 800, 0, 230, 180⟩ := by
  refine ⟨fun _ => rfl, by decide +kernel, by decide +kernel, by decide +kernel, rfl, by decide +kernel⟩

theorem witness_EveryStepKeeps : step State.reset = .next State.reset := rfl

theorem witness_NothingRunsBackward :
    exec (.lateFrame 0 []) level = .next level ∧ Instr.lateFrame 0 [] ≠ .hardwareReset ∧ level.clock ≤ 0xFFFFFFFF ∧
    level.bookingSeq ≤ 0xFFFFFFFFFFFF ∧ level.sessionSeq ≤ 0xFFFFFFFF ∧ level.counter .noShows ≤ 0xFFFFFFFF ∧
    closesSequence (.lateFrame 0 []) = false ∧ isLaneEvent (.lateFrame 0 []) = true :=
  ⟨rfl, nofun, by decide +kernel, by decide +kernel, by decide +kernel, by decide +kernel, rfl, rfl⟩

end Sys2Proof.Tests
end

section
/-! SUPPORT. FIND CREDENTIAL (R68): what the search of the live records returns, the answer it gives, and the check of a frame
with credential 0. -/

namespace Sys2Proof.Machine

variable {s : State} {c : Credential} {i : SlotNo} {r : Reservation}

/-! ### The search of the live records -/

/-- The slot the search returns holds a live record that carries the credential. -/
theorem State.findLive_carries (h : s.findLive c = some i) : ∃ r, s.record i = some r ∧ r.credential = c := by
  have test := List.find?_some h
  cases hr : s.record i with
  | some r => exact ⟨r, rfl, by simpa [hr] using test⟩
  | none => simp [hr] at test

/-- The search returns a slot wherever a live record carries the credential. -/
theorem State.findLive_ne_none (hr : s.record i = some r) (hc : r.credential = c) : s.findLive c ≠ none := by
  intro h
  have fails := List.find?_eq_none.1 h i (mem_allSlots i)
  simp [hr, hc] at fails

theorem State.findLive_eq_some_of_unique (hr : s.record i = some r) (hc : r.credential = c)
    (unique : ∀ j x, s.record j = some x → x.credential = c → j = i) : s.findLive c = some i := by
  obtain ⟨j, hj⟩ := Option.ne_none_iff_exists'.1 (State.findLive_ne_none hr hc)
  obtain ⟨x, hx, hxc⟩ := State.findLive_carries hj
  rwa [unique j x hx hxc] at hj

theorem State.findLive_eq_none_of_absent (absent : ∀ j x, s.record j = some x → x.credential ≠ c) :
    s.findLive c = none := by
  cases h : s.findLive c with
  | none => rfl
  | some j =>
    obtain ⟨x, hx, hxc⟩ := State.findLive_carries h
    exact absurd hxc (absent j x hx)

/-! ### The answer -/

theorem State.findCredential_found (h : s.findLive c = some i) (hr : s.record i = some r) :
    s.findCredential c = ⟨.ok, le 2 (s.ticket i) ++ le 1 r.state.code ++ bayField r.bay⟩ := by
  simp [State.findCredential, h, hr]

theorem State.findCredential_absent (h : s.findLive c = none) : s.findCredential c = ⟨.noSuch, []⟩ := by
  simp [State.findCredential, h]

/-- A bay field is the bay's number, or 0xFFFF for none (12.4). -/
theorem bayField_eq (b : Option BayNo) : bayField b = le 2 (match b with | some n => n.val | none => 0xFFFF) := by
  cases b <;> rfl

/-! ### The check of credential 0 -/

/-- A reservation request's replies carry the number of FREE slots (R177, 12.2). -/
theorem State.freeField_findCredential (s : State) : s.freeField 0x15 = le 2 s.freeSlots.length := rfl

/-- Credential 0 fails check 8 at field 1 (R179). -/
theorem State.judgeBody_findCredential_zero (s : State) :
    s.judgeBody 0x15 0 (le 5 0) = .answer .badParameter (1 :: le 2 s.freeSlots.length) := by
  have form : formLength 0x15 = some (some 5) := rfl
  have body : readRequest 0x15 0 (le 5 0) = some (.findCredential 0) :=
    readRequest_requestBody (.findCredential 0) 0x15 rfl nofun
  have field : badBodyField 0x15 (le 5 0) (.findCredential 0) = 1 := rfl
  simp only [State.judgeBody, form, body, field, length_le, State.freeField_findCredential]
  rfl

/-- The frame of FIND CREDENTIAL with credential 0 comes to check 8 and fails there (R178, R179). -/
theorem State.judgeFrame_findCredential_zero (s : State) :
    s.judgeFrame (portFrame 0x15 0 (le 5 0)) = .answer .badParameter (1 :: le 2 s.freeSlots.length) := by
  calc s.judgeFrame (portFrame 0x15 0 (le 5 0))
      = s.judgeBody 0x15 0 (le 5 0) :=
        judgeFrame_portFrame s 0x15 0 (le 5 0) (by norm_num) (by norm_num) (by simp)
    _ = _ := s.judgeBody_findCredential_zero

end Sys2Proof.Machine

open Sys2Proof Sys2Proof.Machine

/-- Settles O18: the search over all slots is decided by the uniqueness of the credential among the live records (R52). -/
theorem findCredentialFindsTheLiveRecord : Obligations.FindCredentialFindsTheLiveRecord := by
  intro c s
  refine ⟨s.judgeFrame_findCredential_zero, fun i r taken hr hc unique => ?_, fun taken absent => ?_⟩
  · have found := State.findCredential_found (State.findLive_eq_some_of_unique hr hc unique) hr
    rw [exec_findCredential taken, found, bayField_eq]
    rfl
  · rw [exec_findCredential taken, State.findCredential_absent (State.findLive_eq_none_of_absent absent)]

end

section
/-! SUPPORT. Selection (R77, R81): the order in which stage 3 ranks two bays, and the scan over the passing bays that keeps the
leader of those it has seen. -/

namespace Sys2Proof.Machine

variable {s : State} {c : Claim} {b x y : BayNo}

/-! ### The keys of the ranking -/

/-- The kind a rank stands for. -/
def kindOfRank : Nat → Kind
  | 0 => .accessible
  | 1 => .standard
  | _ => .large

theorem kindRank_injective : Function.Injective kindRank :=
  Function.LeftInverse.injective (g := kindOfRank) fun k => by cases k <;> rfl

/-- The pledge a claim is judged by, as the pledge less what the record gives back on that feeder (R80). -/
theorem State.pledgeFor_eq_sub (s : State) (c : Claim) (f : FeederNo) :
    s.pledgeFor c f = (s.feeder f).pledge - match c.leaving with
      | some y => if s.feederOf y = some f then s.pminOf y else 0
      | none => 0 := by
  unfold State.pledgeFor
  cases c.leaving with
  | none => rfl
  | some y =>
    by_cases on : s.feederOf y = some f <;> simp [State.onFeeder, on]

/-- Bay `x` comes before bay `y` in the ranking of stage 3: by kind, then by the larger spare, then by number (R81). -/
def State.RanksBefore (s : State) (c : Claim) (x y : BayNo) : Prop :=
  ∀ p q, (s.bay x).place = some p → (s.bay y).place = some q →
    kindRank p.kind < kindRank q.kind ∨
      kindRank p.kind = kindRank q.kind ∧ (s.spare c q < s.spare c p ∨ s.spare c q = s.spare c p ∧ x.val < y.val)

/-- The ranking is transitive through a planned bay; an unplanned one has no keys. -/
theorem State.RanksBefore.trans (hx : s.RanksBefore c b x) (hy : s.RanksBefore c x y) (planned : (s.bay x).place ≠ none) :
    s.RanksBefore c b y := by
  intro p q hp hq
  obtain ⟨m, hm⟩ := Option.ne_none_iff_exists'.1 planned
  have first := hx p m hp hm
  have second := hy m q hm hq
  omega

theorem State.RanksBefore.of_ranksAhead (ahead : s.ranksAhead c y x = true) : s.RanksBefore c y x := by
  intro p q hp hq
  simp only [State.ranksAhead, hp, hq, Bool.or_eq_true, Bool.and_eq_true, decide_eq_true_eq, beq_iff_eq] at ahead
  omega

/-- A bay keeps its place before one of a higher number that does not rank ahead of it. -/
theorem State.RanksBefore.of_not_ranksAhead (behind : ¬ s.ranksAhead c y x = true) (lower : x.val < y.val) :
    s.RanksBefore c x y := by
  intro p q hp hq
  simp only [State.ranksAhead, hp, hq, Bool.or_eq_true, Bool.and_eq_true, decide_eq_true_eq, beq_iff_eq] at behind
  omega

/-! ### The scan -/

/-- What the scan holds after one more bay. -/
def State.leader (s : State) (c : Claim) (best : Option BayNo) (b : BayNo) : Option BayNo :=
  match best with
  | some x => if s.ranksAhead c b x then some b else some x
  | none => some b

theorem State.select_eq_foldl_leader (s : State) (c : Claim) :
    s.select c = (allBays.filter (s.placementTest c)).foldl (s.leader c) none := rfl

/-- What the scan holds is none before the first bay, and else the bay of those seen that ranks before the others. -/
def State.Leads (s : State) (c : Claim) (seen : List BayNo) : Option BayNo → Prop
  | none => seen = []
  | some b => b ∈ seen ∧ ∀ x ∈ seen, x ≠ b → s.RanksBefore c b x

/-- One more bay, of a higher number than those seen. -/
theorem State.Leads.concat {seen : List BayNo} {best : Option BayNo} (h : s.Leads c seen best)
    (planned : ∀ x ∈ seen, (s.bay x).place ≠ none) (lower : ∀ x ∈ seen, x < y) :
    s.Leads c (seen ++ [y]) (s.leader c best y) := by
  cases best with
  | none =>
    obtain rfl : seen = [] := h
    exact ⟨List.mem_singleton_self y, fun x hx ne => absurd (List.mem_singleton.1 hx) ne⟩
  | some b =>
    obtain ⟨mem, leads⟩ := h
    by_cases ahead : s.ranksAhead c y b = true
    · have overtakes := State.RanksBefore.of_ranksAhead ahead
      simp only [State.leader, ahead, if_true]
      refine ⟨by simp, fun x hx ne => ?_⟩
      have hx : x ∈ seen := by simpa [ne] using hx
      by_cases e : x = b
      · exact e ▸ overtakes
      · exact overtakes.trans (leads x hx e) (planned b mem)
    · have stays := State.RanksBefore.of_not_ranksAhead ahead (lower b mem)
      simp only [State.leader, ahead]
      refine ⟨by simp [mem], fun x hx ne => ?_⟩
      rcases List.mem_append.1 hx with hx | hx
      · exact leads x hx ne
      · exact List.mem_singleton.1 hx ▸ stays

/-- The scan of planned bays in ascending number holds their leader at every point. -/
theorem State.leads_foldl_leader (bays : List BayNo) (planned : ∀ x ∈ bays, (s.bay x).place ≠ none)
    (ascending : bays.Pairwise (· < ·)) : s.Leads c bays (bays.foldl (s.leader c) none) := by
  induction bays using List.reverseRecOn with
  | nil => rfl
  | append_singleton bays y ih =>
    obtain ⟨sorted, -, lower⟩ := List.pairwise_append.1 ascending
    have planned' : ∀ x ∈ bays, (s.bay x).place ≠ none := fun x hx => planned x (List.mem_append_left _ hx)
    rw [List.foldl_concat]
    exact (ih planned' sorted).concat planned' fun x hx => lower x hx y (List.mem_singleton_self y)

/-! ### The bays stages 1 and 2 keep -/

theorem pairwise_lt_allBays : allBays.Pairwise (· < ·) := by
  unfold allBays
  exact (List.sortedLT_finRange 512).pairwise

theorem mem_passing : b ∈ allBays.filter (s.placementTest c) ↔ s.placementTest c b = true := by
  simp [List.mem_filter, mem_allBays]

theorem State.masks_of_placementTest (h : s.placementTest c b = true) : s.masks c b = true := by
  simp only [State.placementTest, Bool.and_eq_true] at h
  exact h.2

theorem State.planned_of_placementTest (h : s.placementTest c b = true) : (s.bay b).place ≠ none := by
  intro unplanned
  have masks := State.masks_of_placementTest h
  simp [State.masks, unplanned] at masks

/-- The kind mask leaves an ACCESSIBLE bay to the class ACCESSIBLE (R79). -/
theorem State.accessible_of_placementTest {p : BayPlan} (h : s.placementTest c b = true) (hp : (s.bay b).place = some p)
    (kind : p.kind = .accessible) : c.cls = .accessible := by
  have masks := State.masks_of_placementTest h
  simp only [State.masks, hp, kind, kindFits, Bool.and_eq_true, beq_iff_eq] at masks
  obtain ⟨⟨⟨-, cls, -⟩, -⟩, -⟩ := masks
  exact cls

/-- Selection answers the leader of the bays stages 1 and 2 keep. -/
theorem State.leads_select (s : State) (c : Claim) : s.Leads c (allBays.filter (s.placementTest c)) (s.select c) := by
  rw [State.select_eq_foldl_leader]
  exact State.leads_foldl_leader _ (fun x hx => State.planned_of_placementTest (mem_passing.1 hx))
    (pairwise_lt_allBays.filter _)

theorem State.placementTest_of_select (h : s.select c = some b) : s.placementTest c b = true := by
  have leads := s.leads_select c
  rw [h] at leads
  exact mem_passing.1 leads.1

theorem State.ranksBefore_of_select (h : s.select c = some b) (passes : s.placementTest c x = true) (ne : x ≠ b) :
    s.RanksBefore c b x := by
  have leads := s.leads_select c
  rw [h] at leads
  exact leads.2 x (mem_passing.2 passes) ne

theorem State.select_eq_none_iff : s.select c = none ↔ ∀ b, s.placementTest c b = false := by
  constructor
  · intro h b
    have leads := s.leads_select c
    rw [h] at leads
    have fails := List.filter_eq_nil_iff.1 leads b (mem_allBays b)
    exact Bool.eq_false_iff.2 fails
  · intro fails
    cases h : s.select c with
    | none => rfl
    | some b => cases (fails b).symm.trans (State.placementTest_of_select h)

end Sys2Proof.Machine

open Sys2Proof Sys2Proof.Machine

/-- Settles O23: the scan in ascending number holds, at every point, the bay of those seen that ranks first (R81). -/
theorem selectionReturnsTheFirstInRank : Obligations.SelectionReturnsTheFirstInRank := by
  intro s c rank spare
  have spare_eq (p : BayPlan) : spare p = s.spare c p :=
    congrArg (s.feederLimit p.feeder - ·) (s.pledgeFor_eq_sub c p.feeder).symm
  refine ⟨State.select_eq_none_iff, fun b found => ?_⟩
  have passes := State.placementTest_of_select found
  refine ⟨passes, fun p => State.accessible_of_placementTest passes, fun x p q ne passes' hp hq => ?_⟩
  rw [spare_eq, spare_eq]
  rcases State.ranksBefore_of_select found passes' ne p q hp hq with kind | ⟨kind, rest⟩
  · exact .inl kind
  · exact .inr ⟨kindRank_injective kind, rest⟩

end

section
/-! SUPPORT. The trim state of a feeder (R145, R146): what a report's comparison makes of the monitor, row by row, and what the
evaluation makes of an entry into TRIMMED, of a return to NORMAL, and of a transition that is neither. -/

namespace Sys2Proof.Machine

variable {s : State} {f : FeederNo} {m n : Monitor} {run : Bool}

/-! ### The comparison, row by row (R146) -/

theorem Monitor.with_state_eq {st : TrimState} (h : m.state = st) : { m with state := st } = m := by
  subst h; rfl

theorem Monitor.advance_normal_above (st : m.state = .normal) (above : m.high < m.load) :
    m.advance = { m with state := .trimmed, step := 1 } := by
  simp [Monitor.advance, st, above]

theorem Monitor.advance_normal_within (st : m.state = .normal) (within : m.load ≤ m.high) :
    m.advance = { m with state := .normal, step := 0 } := by
  simp [Monitor.advance, st, Nat.not_lt.2 within]

/-- A trimmed or eased feeder's load below the low mark clears the trim. -/
theorem Monitor.advance_below (st : m.state ≠ .normal) (below : m.load < m.low) :
    m.advance = { m with state := .normal, step := 0 } := by
  cases h : m.state with
  | normal => exact absurd h st
  | trimmed => simp [Monitor.advance, h, below]
  | eased => simp [Monitor.advance, h, below]

/-- From the low mark up to the high mark, a trimmed or eased feeder is eased, its step kept. -/
theorem Monitor.advance_within (st : m.state ≠ .normal) (low : m.low ≤ m.load) (high : m.load ≤ m.high) :
    m.advance = { m with state := .eased } := by
  cases h : m.state with
  | normal => exact absurd h st
  | trimmed => simp [Monitor.advance, h, Nat.not_lt.2 low, high]
  | eased => simp [Monitor.advance, h, Nat.not_lt.2 low, Nat.not_lt.2 high, Monitor.with_state_eq h]

theorem Monitor.advance_trimmed_above (st : m.state = .trimmed) (low : m.low ≤ m.load) (above : m.high < m.load) :
    m.advance = { m with state := .trimmed } := by
  simp [Monitor.advance, st, Nat.not_lt.2 low, Nat.not_le.2 above, Monitor.with_state_eq st]

theorem Monitor.advance_eased_above (st : m.state = .eased) (low : m.low ≤ m.load) (above : m.high < m.load) :
    m.advance = { m with state := .trimmed, step := min 3 (m.step + 1) } := by
  simp [Monitor.advance, st, Nat.not_lt.2 low, above]

/-! ### The step's range (R146) -/

theorem Monitor.Lawful.step_eq_zero (lawful : m.Lawful) (st : m.state = .normal) : m.step = 0 := by
  simpa [Monitor.Lawful, st] using lawful

theorem Monitor.Lawful.step_ne_zero (lawful : m.Lawful) (st : m.state ≠ .normal) : m.step ≠ 0 := by
  obtain ⟨positive, -⟩ : 1 ≤ m.step ∧ m.step ≤ 3 := by simpa [Monitor.Lawful, st] using lawful
  omega

/-! ### The evaluation (R145, R146) -/

/-- `s` with what the Load Monitor holds for a feeder replaced. -/
def State.putMonitor (s : State) (f : FeederNo) (n : Monitor) : State := s.modFeeder f fun x => { x with monitor := some n }

@[simp] theorem State.monitor_putMonitor : ((s.putMonitor f n).feeder f).monitor = some n := by
  simp [State.putMonitor]

/-- An entry into TRIMMED raises FEEDER and is counted. -/
theorem State.evaluateTrim_of_entry (held : (s.feeder f).monitor = some m) (moves : m.advance = n)
    (before : m.state ≠ .trimmed) (after : n.state = .trimmed) (called : decide (m.step ≠ n.step) = run) :
    s.evaluateTrim f = (((s.putMonitor f n).raise .feeder).bump .trimEntries, run) := by
  subst called
  simp [State.evaluateTrim, held, moves, before, after, State.putMonitor]

/-- A return to NORMAL raises FEEDER. -/
theorem State.evaluateTrim_of_return (held : (s.feeder f).monitor = some m) (moves : m.advance = n)
    (before : m.state ≠ .normal) (after : n.state = .normal) (called : decide (m.step ≠ n.step) = run) :
    s.evaluateTrim f = ((s.putMonitor f n).raise .feeder, run) := by
  subst called
  simp [State.evaluateTrim, held, moves, before, after, State.putMonitor]

/-- A state that stays, or moves to EASED, raises nothing; with the step as it was, no run is called for. -/
theorem State.evaluateTrim_of_quiet (held : (s.feeder f).monitor = some m) (moves : m.advance = n)
    (quiet : n.state = m.state ∨ n.state = .eased) (step : m.step = n.step) :
    s.evaluateTrim f = (s.putMonitor f n, false) := by
  rcases quiet with same | eased
  · simp [State.evaluateTrim, held, moves, same, step, State.putMonitor]
  · simp [State.evaluateTrim, held, moves, eased, step, State.putMonitor]

/-- Whatever is raised and counted, the feeder holds the monitor the comparison makes. -/
theorem State.monitor_evaluateTrim (held : (s.feeder f).monitor = some m) :
    ((s.evaluateTrim f).1.feeder f).monitor = some m.advance := by
  simp only [State.evaluateTrim, held]
  split <;> split <;> simp

end Sys2Proof.Machine

open Sys2Proof Sys2Proof.Machine

/-- Settles O47: each row of R146 is one row of the comparison, and an entry into TRIMMED, a return to NORMAL or neither. -/
theorem trimMovesByTheTable : Obligations.TrimMovesByTheTable := by
  intro s f m held lawful moved entered
  have returns (st : m.state ≠ .normal) (below : m.load < m.low) :
      s.evaluateTrim f = ((moved .normal 0).raise .feeder, true) :=
    State.evaluateTrim_of_return held (Monitor.advance_below st below) st rfl (by simpa using lawful.step_ne_zero st)
  have eases (st : m.state ≠ .normal) (low : m.low ≤ m.load) (high : m.load ≤ m.high) :
      s.evaluateTrim f = (moved .eased m.step, false) :=
    State.evaluateTrim_of_quiet held (Monitor.advance_within st low high) (.inr rfl) rfl
  refine ⟨fun st above => ?_, fun st within => ?_, fun st => returns (by simp [st]), fun st => eases (by simp [st]),
    fun st low above => ?_, fun st => returns (by simp [st]), fun st low above => ?_, fun st => eases (by simp [st]),
    fun n hn => ?_⟩
  · exact State.evaluateTrim_of_entry held (Monitor.advance_normal_above st above) (by simp [st]) rfl
      (by simp [lawful.step_eq_zero st])
  · exact State.evaluateTrim_of_quiet held (Monitor.advance_normal_within st within) (.inl st.symm) (lawful.step_eq_zero st)
  · exact State.evaluateTrim_of_quiet held (Monitor.advance_trimmed_above st low above) (.inl st.symm) rfl
  · exact State.evaluateTrim_of_entry held (Monitor.advance_eased_above st low above) (by simp [st]) rfl
      (decide_eq_decide.2 ne_comm)
  · obtain rfl : m.advance = n := Option.some.inj ((State.monitor_evaluateTrim held).symm.trans hn)
    exact KeepsLive.advance_lawful m lawful

end

section
/-! SUPPORT. What every step keeps: the two invariants and the counts that never run backward, each shown to be closed under the leaf
updates of `Keeps`, and the step as the front command on the state with the queue's rest. -/

-- One proof after another: side by side, the package as one text takes a thread and its stack for each.
set_option Elab.async false

namespace Sys2Proof.Machine

variable {s t : State}

/-! ### A step -/

theorem step_cons (c : Instr) (s : State) : step { s with pending := c :: s.pending } = exec c s := rfl

theorem step_idle (h : s.pending = []) : step s = .next s := by simp [step, h]

/-- A property of every command's effect that does not look at the queue is kept by every step. -/
theorem step_keeps {P : State → Prop} (queue : ∀ s q, P s → P { s with pending := q })
    (command : ∀ c s t, P s → exec c s = .next t → P t) (h : P s) (e : step s = .next t) : P t := by
  cases hq : s.pending with
  | nil =>
    rw [step_idle hq] at e
    cases e
    exact h
  | cons c rest =>
    simp only [step, hq] at e
    exact command c _ t (queue s rest h) e

/-- Marks cleared slot by slot keep what a change of one mark keeps. -/
theorem unmark_keeps {P : State → Prop}
    (hP : ∀ s i, P s → P (s.modSlot i fun x => { x with mark := false })) (listed : List SlotNo) (h : P s) :
    P (listed.foldl (fun t i => t.modSlot i fun x => { x with mark := false }) s) :=
  foldl_keeps (fun t i => t.modSlot i fun x => { x with mark := false }) hP listed s h

/-! ### The parts of a lawful state -/

/-- A change that reaches no bay, unit, feeder, lane or deadline, neither the port nor the ratio counter. -/
theorem State.Lawful.congr (h : s.Lawful) (bays : t.bays = s.bays := by simp) (units : t.units = s.units := by simp)
    (feeders : t.feeders = s.feeders := by simp) (lanes : t.lanes = s.lanes := by simp)
    (deadlines : t.deadlines = s.deadlines := by simp) (port : t.port = s.port := by simp)
    (ratio : t.ratioCount = s.ratioCount := by simp) : t.Lawful := by
  simpa only [State.Lawful, State.bay, State.unit, State.feeder, State.lane, bays, units, feeders, lanes, deadlines, port,
    ratio] using h

theorem State.evaluateChanges_lawful (h : s.Lawful) : s.evaluateChanges.Lawful := h.congr

theorem State.lawful_keepsLive : KeepsLive State.Lawful where
  modBay s b f h hf := by
    obtain ⟨bays, rest⟩ := h
    refine ⟨fun x => ?_, rest⟩
    by_cases e : x = b
    · rw [e, State.bay_modBay_self]; exact hf (bays b)
    · rw [State.bay_modBay_ne _ _ _ _ e]; exact bays x
  modGrant _ _ _ h := h
  modUnit s b f h hf := by
    obtain ⟨bays, units, rest⟩ := h
    refine ⟨bays, fun x => ?_, rest⟩
    by_cases e : x = b
    · rw [e, State.unit_modUnit_self]; exact hf (units b)
    · rw [State.unit_modUnit_ne _ _ _ _ e]; exact units x
  modFeeder s f g h hg := by
    obtain ⟨bays, units, feeders, rest⟩ := h
    refine ⟨bays, units, fun x => ?_, rest⟩
    by_cases e : x = f
    · rw [e, State.feeder_modFeeder_self]; exact hg (feeders f)
    · rw [State.feeder_modFeeder_ne _ _ _ _ e]; exact feeders x
  modLane s l f h hf := by
    obtain ⟨bays, units, feeders, lanes, rest⟩ := h
    refine ⟨bays, units, feeders, fun x => ?_, rest⟩
    by_cases e : x = l
    · rw [e, State.lane_modLane_self]; exact hf (lanes l)
    · rw [State.lane_modLane_ne _ _ _ _ e]; exact lanes x
  modRecord _ _ _ h := h
  freeSlot _ _ _ h _ := h
  takeSlot _ _ _ _ h _ := h
  setMark _ _ h := h
  lists _ _ _ h := h
  ratioCount _ _ h hv := by
    obtain ⟨bays, units, feeders, lanes, deadlines, port, ratio⟩ := h
    exact ⟨bays, units, feeders, lanes, deadlines, port, hv ratio⟩
  deadlines _ _ h hd := by
    obtain ⟨bays, units, feeders, lanes, deadlines, rest⟩ := h
    exact ⟨bays, units, feeders, lanes, hd deadlines, rest⟩
  effective _ _ h := h
  sessions _ _ h := h
  raise _ _ h _ := h
  bump _ _ h := h.congr

theorem State.lawful_keeps : Keeps State.Lawful where
  toKeepsLive := State.lawful_keepsLive
  curtailment _ _ h := h
  remap _ _ _ h hv := by
    obtain ⟨bays, units, feeders, lanes, deadlines, port, ratio⟩ := h
    exact ⟨bays, units, feeders, lanes, deadlines, port, by rcases hv with rfl | rfl <;> simp [ratio]⟩
  clearMarks _ listed h := State.evaluateChanges_lawful (unmark_keeps (fun _ _ ht => ht) listed h)
  clock _ _ h _ := h
  resetNotices _ h := h
  taken _ h := h
  masked _ _ h := h
  threshold _ _ h _ := h
  port _ _ h hp := by
    obtain ⟨bays, units, feeders, lanes, deadlines, port, ratio⟩ := h
    exact ⟨bays, units, feeders, lanes, deadlines, hp port, ratio⟩
  staged _ _ h := h

theorem Port.lawful_reset : State.reset.port.Lawful :=
  ⟨rfl, Nat.zero_le _, nofun, rfl, nofun⟩

/-- The state after a hardware reset is lawful, whatever waits in the queue. -/
theorem State.lawful_reset (q : List Instr) : State.Lawful { State.reset with pending := q } := by
  refine ⟨fun b => ?_, fun b => ?_, fun f => ?_, fun l => ?_, ⟨.nil, .nil, nofun⟩, Port.lawful_reset, Nat.zero_le _⟩
  · rw [State.bay_reset]; exact ⟨rfl, rfl⟩
  · rw [State.unit_reset]; exact ⟨rfl, Nat.zero_le _, Nat.zero_le _⟩
  · rw [State.feeder_reset]; exact nofun
  · rw [State.lane_reset]; exact ⟨Nat.zero_le _, nofun, nofun⟩

theorem exec_lawful (c : Instr) (s t : State) (h : s.Lawful) (e : exec c s = .next t) : t.Lawful :=
  State.lawful_keeps.exec c s t (fun _ _ _ h => h) (fun _ _ _ _ h => h) (fun _ s _ => State.lawful_reset s.pending) h e

/-! ### Notices -/

theorem Notices.drive_lawful {n : Notices} (low : 1 ≤ n.threshold) (high : n.threshold ≤ 64) : n.drive.Lawful :=
  ⟨rfl, low, high⟩

theorem Notices.raise_lawful {n : Notices} (h : n.Lawful) (f : Notice) : (n.raise f).Lawful :=
  Notices.drive_lawful h.2.1 h.2.2

theorem Notices.evaluate_lawful {n : Notices} (h : n.Lawful) (count : Nat) : (n.evaluate count).Lawful := by
  unfold Notices.evaluate
  split
  · exact Notices.raise_lawful h _
  · split
    · exact Notices.drive_lawful h.2.1 h.2.2
    · exact h

@[simp] theorem Notices.threshold_evaluate (n : Notices) (count : Nat) : (n.evaluate count).threshold = n.threshold := by
  unfold Notices.evaluate
  split
  · rfl
  · split <;> rfl

theorem Notices.isSet_raise_changes (n : Notices) : (n.raise .changes).isSet .changes = true := by
  simp only [Notices.isSet, Notices.raise, Notices.drive, Notice.word, Notice.bit]
  generalize n.status = w
  revert w; decide

theorem Notices.isSet_clear_changes (n : Notices) : (n.clear .changes).isSet .changes = false := by
  simp only [Notices.isSet, Notices.clear, Notices.drive, Notice.word, Notice.bit]
  generalize n.status = w
  revert w; decide

/-- Raising another flag leaves CHANGES as it is. -/
theorem Notices.isSet_raise_other (n : Notices) {f : Notice} (h : f ≠ .changes) :
    (n.raise f).isSet .changes = n.isSet .changes := by
  simp only [Notices.isSet, Notices.raise, Notices.drive]
  generalize n.status = w
  revert w
  cases f with
  | changes => exact absurd rfl h
  | bayAlert | feeder | curtailEnded | planApplied | counterHigh => decide

theorem Notices.isSet_taken (n : Notices) : n.taken.isSet .changes = n.isSet .changes := by
  simp only [Notices.isSet, Notices.taken, Notices.drive]
  generalize n.status = w
  revert w; decide

theorem Notices.isSet_evaluate_of_le {n : Notices} {count : Nat} (h : n.threshold ≤ count) :
    (n.evaluate count).isSet .changes = true := by
  rw [Notices.evaluate, if_pos h]
  exact n.isSet_raise_changes

theorem Notices.isSet_evaluate_zero {n : Notices} (h : 1 ≤ n.threshold) : (n.evaluate 0).isSet .changes = false := by
  rw [Notices.evaluate, if_neg (by omega), if_pos rfl]
  exact n.isSet_clear_changes

/-- An evaluation makes CHANGES follow the marked count (R189). -/
theorem State.evaluateChanges_follows (h : 1 ≤ s.notices.threshold) : s.evaluateChanges.ChangesLawful := by
  constructor
  · intro le
    exact Notices.isSet_evaluate_of_le ((Notices.threshold_evaluate _ _).ge.trans le)
  · intro zero
    have zero : s.markedCount = 0 := zero
    simp only [State.evaluateChanges, zero]
    exact Notices.isSet_evaluate_zero h

/-! ### The books -/

/-- A change that leaves the free-slot list and the emptiness of each slot. -/
theorem State.FreeListLawful.congr (h : s.FreeListLawful) (free : t.freeSlots = s.freeSlots)
    (live : ∀ i, t.record i = none ↔ s.record i = none) : t.FreeListLawful := by
  obtain ⟨nodup, exact⟩ := h
  exact ⟨free ▸ nodup, fun i => by rw [free, exact, live]⟩

theorem State.ChangesLawful.congr (h : s.ChangesLawful) (count : t.markedCount = s.markedCount)
    (threshold : t.notices.threshold = s.notices.threshold)
    (flag : t.notices.isSet .changes = s.notices.isSet .changes) : t.ChangesLawful := by
  simpa only [State.ChangesLawful, count, threshold, flag] using h

/-- The books after a change of slots with CHANGES evaluated against the marks. -/
theorem State.BooksLawful.evaluate (h : s.BooksLawful) (free : t.FreeListLawful) (notices : t.notices = s.notices)
    (port : t.port = s.port) : t.evaluateChanges.BooksLawful := by
  obtain ⟨-, lawful, -, hp⟩ := h
  have lawful' : t.notices.Lawful := notices ▸ lawful
  exact ⟨free, Notices.evaluate_lawful lawful' _, State.evaluateChanges_follows lawful'.2.1, port ▸ hp⟩

/-- The books after a change that leaves the slots and the port, and of the notices neither CHANGES nor the threshold. -/
theorem State.BooksLawful.renotice (h : s.BooksLawful) (slots : t.slots = s.slots) (free : t.freeSlots = s.freeSlots)
    (lawful : t.notices.Lawful) (threshold : t.notices.threshold = s.notices.threshold)
    (flag : t.notices.isSet .changes = s.notices.isSet .changes) (port : t.port = s.port) : t.BooksLawful := by
  obtain ⟨hf, -, changes, hp⟩ := h
  refine ⟨hf.congr free fun i => ?_, lawful, changes.congr ?_ threshold flag, port ▸ hp⟩
  · simp [State.record, State.slot, slots]
  · simp [State.markedCount, slots]

theorem record_modSlot_none_iff (i j : SlotNo) (f : Slot → Slot) (hf : ∀ x, (f x).record = none ↔ x.record = none) :
    (s.modSlot i f).record j = none ↔ s.record j = none := by
  by_cases e : j = i
  · subst e; simp [State.record, hf]
  · simp [State.record, State.slot_modSlot_ne _ _ _ _ e]

theorem record_freeSlot (s : State) (i j : SlotNo) (o : Ending) :
    (s.freeSlot i o).record j = if j = i then none else s.record j := by
  by_cases e : j = i
  · subst e; simp [State.record, State.slot, State.freeSlot, State.evaluateChanges]
  · have : i.val ≠ j.val := fun h => e (Fin.ext h.symm)
    simp [State.record, State.slot, State.freeSlot, State.evaluateChanges, e, this]

theorem record_takeSlot (s : State) (i j : SlotNo) (rest : List SlotNo) (r : Reservation) :
    (s.takeSlot i rest r).record j = if j = i then some r else s.record j := by
  by_cases e : j = i
  · subst e; simp [State.record, State.slot, State.takeSlot]
  · have : i.val ≠ j.val := fun h => e (Fin.ext h.symm)
    simp [State.record, State.slot, State.takeSlot, e, this]

/-- Putting a slot that carries the same mark leaves the marked count. -/
theorem countP_mark_set (xs : Vector Slot 1024) (i : SlotNo) (x : Slot) (h : x.mark = xs[i.val].mark) :
    (xs.set i.val x).toList.countP (·.mark) = xs.toList.countP (·.mark) := by
  have here : xs.toList[i.val]'(by simp) = xs[i.val] := by simp
  have same : xs.toList.map (·.mark) = (xs.toList.set i.val x).map (·.mark) := by
    rw [List.map_set, h, ← here, ← List.getElem_map (f := Slot.mark), List.set_getElem_self]
    simp
  have count (l : List Slot) : l.countP (·.mark) = (l.map (·.mark)).countP id := by rw [List.countP_map]; rfl
  rw [Vector.toList_set, count, count, same]

theorem State.markedCount_takeSlot (s : State) (i : SlotNo) (rest : List SlotNo) (r : Reservation) :
    (s.takeSlot i rest r).markedCount = s.markedCount := countP_mark_set _ _ _ rfl

/-- A slot freed joins the list it was not on (R50). -/
theorem State.FreeListLawful.freeSlot (h : s.FreeListLawful) {i : SlotNo} (live : (s.record i).isSome = true) (o : Ending) :
    (s.freeSlot i o).FreeListLawful := by
  obtain ⟨nodup, exact⟩ := h
  have out : i ∉ s.freeSlots := fun hi => by simp [(exact i).1 hi] at live
  refine ⟨List.nodup_append.2 ⟨nodup, List.nodup_singleton i, fun a ha b hb e => ?_⟩, fun j => ?_⟩
  · rw [List.mem_singleton] at hb
    exact out (hb ▸ e ▸ ha)
  · show j ∈ s.freeSlots ++ [i] ↔ _
    rw [record_freeSlot, List.mem_append, exact]
    by_cases e : j = i <;> simp [e]

/-- A slot taken leaves the list it headed (R50, R52). -/
theorem State.FreeListLawful.takeSlot (h : s.FreeListLawful) {i : SlotNo} {rest : List SlotNo} (head : s.freeSlots = i :: rest)
    (r : Reservation) : (s.takeSlot i rest r).FreeListLawful := by
  obtain ⟨nodup, exact⟩ := h
  rw [head] at nodup exact
  obtain ⟨out, nodup⟩ := List.nodup_cons.1 nodup
  refine ⟨nodup, fun j => ?_⟩
  show j ∈ rest ↔ _
  rw [record_takeSlot]
  by_cases e : j = i
  · simp [e, out]
  · rw [if_neg e, ← exact, List.mem_cons]
    simp [e]

theorem State.booksLawful_keepsLive : KeepsLive State.BooksLawful where
  modBay _ _ _ h _ := h
  modGrant _ _ _ h := h
  modUnit _ _ _ h _ := h
  modFeeder _ _ _ h _ := h
  modLane _ _ _ h _ := h
  modRecord s i f h := by
    obtain ⟨free, notices, changes, port⟩ := h
    exact ⟨free.congr rfl fun j => record_modSlot_none_iff i j _ (by simp), notices,
      changes.congr (s.markedCount_modRecord i f) rfl rfl, port⟩
  freeSlot s i o h live :=
    h.evaluate (t := { s with
      slots := s.slots.set i.val
        { s.slots[i.val] with
          record := none, lastOutcome := some o, generation := nextGeneration s.slots[i.val].generation, mark := true }
      freeSlots := s.freeSlots ++ [i] }) (h.1.freeSlot live o) rfl rfl
  takeSlot s i rest r h head := by
    obtain ⟨free, notices, changes, port⟩ := h
    exact ⟨free.takeSlot head r, notices, changes.congr (s.markedCount_takeSlot i rest r) rfl rfl, port⟩
  setMark s i h :=
    h.evaluate (t := s.modSlot i fun x => { x with mark := true })
      (h.1.congr rfl fun j => record_modSlot_none_iff i j _ (by simp)) rfl rfl
  lists _ _ _ h := h
  ratioCount _ _ h _ := h
  deadlines _ _ h _ := h
  effective _ _ h := h
  sessions _ _ h := h
  raise s f h hf :=
    h.renotice rfl rfl (Notices.raise_lawful h.2.1 f) rfl (Notices.isSet_raise_other _ hf) rfl
  bump s c h := by
    refine h.renotice (by simp) (by simp) ?_ ?_ ?_ (by simp)
    all_goals rw [State.notices_bump]; split
    · exact Notices.raise_lawful h.2.1 _
    · exact h.2.1
    · rfl
    · rfl
    · exact Notices.isSet_raise_other _ (by simp)
    · rfl

theorem State.booksLawful_keeps : Keeps State.BooksLawful where
  toKeepsLive := State.booksLawful_keepsLive
  curtailment _ _ h := h
  remap s g v h _ := by
    obtain ⟨free, notices, changes, port⟩ := h
    refine ⟨free.congr rfl fun i => ?_, notices, changes.congr ?_ rfl rfl, port⟩
    · simp [State.record, State.slot]
    · simp [State.markedCount, Vector.toList_map, List.countP_map, Function.comp_def]
  clearMarks s listed h := by
    let cleared := listed.foldl (fun t i => t.modSlot i fun x => { x with mark := false }) s
    have keeps : cleared.FreeListLawful :=
      unmark_keeps (P := State.FreeListLawful)
        (fun t i ht => ht.congr rfl fun j => record_modSlot_none_iff i j _ (by simp)) listed h.1
    exact h.evaluate keeps (clearMarks_field (·.notices) (fun _ _ _ => rfl) listed s)
      (clearMarks_field (·.port) (fun _ _ _ => rfl) listed s)
  clock _ _ h _ := h
  resetNotices s h := by
    obtain ⟨free, ⟨-, low, high⟩, -, port⟩ := h
    exact ⟨free, Notices.evaluate_lawful (n := Notices.drive { s.notices with status := 0 }) ⟨rfl, low, high⟩ _,
      State.evaluateChanges_follows low, port⟩
  taken s h := h.renotice rfl rfl (Notices.drive_lawful h.2.1.2.1 h.2.1.2.2) rfl (Notices.isSet_taken _) rfl
  masked s m h := h.renotice rfl rfl (Notices.drive_lawful h.2.1.2.1 h.2.1.2.2) rfl rfl rfl
  threshold s v h hv := by
    obtain ⟨free, ⟨line, -, -⟩, -, port⟩ := h
    obtain ⟨low, high⟩ := hv port
    exact ⟨free, Notices.evaluate_lawful (n := { s.notices with threshold := v }) ⟨line, low, high⟩ _,
      State.evaluateChanges_follows low, port⟩
  port _ _ h hp := by
    obtain ⟨free, notices, changes, port⟩ := h
    exact ⟨free, notices, changes, hp port⟩
  staged _ _ h := h

/-- With every slot FREE, in slot order, and no flag set, the books are lawful. -/
theorem State.booksLawful_of_reset (slots : s.slots = State.reset.slots) (free : s.freeSlots = List.finRange 1024)
    (notices : s.notices = {}) (port : s.port = {}) : s.BooksLawful := by
  have record (i : SlotNo) : s.record i = none := by
    have := State.slot_reset' i
    simp only [State.record, State.slot, slots] at this ⊢
    rw [this]
  have marked : s.markedCount = 0 := by
    have := State.markedCount_reset'
    simpa only [State.markedCount, slots] using this
  refine ⟨⟨?_, fun i => ?_⟩, ?_, ?_, ?_⟩
  · rw [free]; exact List.nodup_finRange 1024
  · rw [free]; exact iff_of_true (List.mem_finRange i) (record i)
  · rw [notices]; exact ⟨rfl, le_rfl, by decide⟩
  · rw [State.ChangesLawful, marked, notices]; exact ⟨by decide, fun _ => rfl⟩
  · rw [port]; exact Port.lawful_reset

theorem State.freeSlots_reset : State.reset.freeSlots = List.finRange 1024 := by simp only [State.reset]

theorem State.booksLawful_reset (q : List Instr) : State.BooksLawful { State.reset with pending := q } :=
  State.booksLawful_of_reset rfl (by dsimp only; exact State.freeSlots_reset) rfl rfl

theorem exec_booksLawful (c : Instr) (s t : State) (h : s.BooksLawful) (e : exec c s = .next t) : t.BooksLawful :=
  State.booksLawful_keeps.exec c s t (fun _ _ _ h => h) (fun _ _ _ _ h => h) (fun _ s _ => State.booksLawful_reset s.pending) h e

/-! ### What never runs backward -/

/-- The clock and the two sequence counters of `t` are at or above those of `s`, and within their ranges where those were. -/
def State.NotAhead (s t : State) : Prop :=
  (s.clock ≤ 0xFFFFFFFF → s.clock ≤ t.clock ∧ t.clock ≤ 0xFFFFFFFF) ∧
    (s.bookingSeq ≤ 0xFFFFFFFFFFFF → s.bookingSeq ≤ t.bookingSeq ∧ t.bookingSeq ≤ 0xFFFFFFFFFFFF) ∧
    (s.sessionSeq ≤ 0xFFFFFFFF → s.sessionSeq ≤ t.sessionSeq ∧ t.sessionSeq ≤ 0xFFFFFFFF)

/-- A saturating step of a counter within its range. -/
theorem satAdd_one_between {top n m : Nat} (h : n ≤ m ∧ m ≤ top) : n ≤ satAdd top m 1 ∧ satAdd top m 1 ≤ top := by
  unfold satAdd; omega

theorem State.notAhead_refl (s : State) : s.NotAhead s := ⟨fun h => ⟨le_rfl, h⟩, fun h => ⟨le_rfl, h⟩, fun h => ⟨le_rfl, h⟩⟩

theorem State.notAhead_congr (h : s.NotAhead t) {u : State} (clock : u.clock = t.clock := by simp)
    (booking : u.bookingSeq = t.bookingSeq := by simp) (session : u.sessionSeq = t.sessionSeq := by simp) : s.NotAhead u := by
  simpa only [State.NotAhead, clock, booking, session] using h

theorem State.notAhead_keepsLive (s : State) : KeepsLive s.NotAhead where
  modBay _ _ _ h _ := h
  modGrant _ _ _ h := h
  modUnit _ _ _ h _ := h
  modFeeder _ _ _ h _ := h
  modLane _ _ _ h _ := h
  modRecord _ _ _ h := h
  freeSlot _ _ _ h _ := h
  takeSlot _ _ _ _ h _ := ⟨h.1, fun hs => satAdd_one_between (h.2.1 hs), h.2.2⟩
  setMark _ _ h := h
  lists _ _ _ h := h
  ratioCount _ _ h _ := h
  deadlines _ _ h _ := h
  effective _ _ h := h
  sessions _ _ h := ⟨h.1, h.2.1, fun hs => satAdd_one_between (h.2.2 hs)⟩
  raise _ _ h _ := h
  bump _ _ h := State.notAhead_congr h

theorem State.notAhead_keeps (s : State) : Keeps s.NotAhead where
  toKeepsLive := s.notAhead_keepsLive
  curtailment _ _ h := h
  remap _ _ _ h _ := h
  clearMarks _ listed h := State.notAhead_congr (unmark_keeps (P := s.NotAhead) (fun _ _ ht => ht) listed h)
  clock t v h hv := by
    refine ⟨fun hs => ?_, h.2⟩
    obtain ⟨above, below⟩ := h.1 hs
    obtain ⟨rises, within⟩ := hv below
    exact ⟨above.trans rises, within⟩
  resetNotices _ h := h
  taken _ h := h
  masked _ _ h := h
  threshold _ _ h _ := h
  port _ _ h _ := h
  staged _ _ h := h

/-- The bank of `t` is that of `s`, and its counters are at or above those of `s`, saturated where those were. -/
def State.CountsOn (s t : State) : Prop :=
  t.snapshot = s.snapshot ∧ ∀ k, s.counter k ≤ 0xFFFFFFFF → s.counter k ≤ t.counter k ∧ t.counter k ≤ 0xFFFFFFFF

theorem Counter.index_injective : Function.Injective Counter.index := by
  intro c k
  cases c <;> cases k <;> simp [Counter.index]

theorem State.counter_bump (s : State) (c k : Counter) :
    (s.bump c).counter k = if k = c then satAdd Config.max32 (s.counter c) 1 else s.counter k := by
  simp only [State.counter, State.counters_bump, Vector.getElem_set]
  by_cases e : k = c
  · simp [e]
  · have : c.index.val ≠ k.index.val := fun h => e (Counter.index_injective (Fin.ext h.symm))
    simp [e, this]

theorem State.countsOn_congr (h : s.CountsOn t) {u : State} (snapshot : u.snapshot = t.snapshot := by simp)
    (counters : u.counters = t.counters := by simp) : s.CountsOn u := by
  simpa only [State.CountsOn, State.counter, snapshot, counters] using h

theorem State.countsOn_keepsLive (s : State) : KeepsLive s.CountsOn where
  modBay _ _ _ h _ := h
  modGrant _ _ _ h := h
  modUnit _ _ _ h _ := h
  modFeeder _ _ _ h _ := h
  modLane _ _ _ h _ := h
  modRecord _ _ _ h := h
  freeSlot _ _ _ h _ := h
  takeSlot _ _ _ _ h _ := h
  setMark _ _ h := h
  lists _ _ _ h := h
  ratioCount _ _ h _ := h
  deadlines _ _ h _ := h
  effective _ _ h := h
  sessions _ _ h := h
  raise _ _ h _ := h
  bump t c h := by
    refine ⟨(State.snapshot_bump t c).trans h.1, fun k hk => ?_⟩
    rw [State.counter_bump]
    by_cases e : k = c
    · rw [if_pos e]
      exact satAdd_one_between (e ▸ h.2 k hk)
    · rw [if_neg e]
      exact h.2 k hk

theorem State.countsOn_keeps (s : State) : Keeps s.CountsOn where
  toKeepsLive := s.countsOn_keepsLive
  curtailment _ _ h := h
  remap _ _ _ h _ := h
  clearMarks _ listed h := State.countsOn_congr (unmark_keeps (P := s.CountsOn) (fun _ _ ht => ht) listed h)
  clock _ _ h _ := h
  resetNotices _ h := h
  taken _ h := h
  masked _ _ h := h
  threshold _ _ h _ := h
  port _ _ h _ := h
  staged _ _ h := h

/-! ### What stays with the plan and outside the lanes -/

/-- The active plan is `p`. -/
def State.HasPlan (p : Option Plan) (s : State) : Prop := s.plan = p

theorem State.hasPlan_keepsLive (p : Option Plan) : KeepsLive (State.HasPlan p) where
  modBay _ _ _ h _ := h
  modGrant _ _ _ h := h
  modUnit _ _ _ h _ := h
  modFeeder _ _ _ h _ := h
  modLane _ _ _ h _ := h
  modRecord _ _ _ h := h
  freeSlot _ _ _ h _ := h
  takeSlot _ _ _ _ h _ := h
  setMark _ _ h := h
  lists _ _ _ h := h
  ratioCount _ _ h _ := h
  deadlines _ _ h _ := h
  effective _ _ h := h
  sessions _ _ h := h
  raise _ _ h _ := h
  bump t c h := (State.plan_bump t c).trans h

theorem State.hasPlan_keeps (p : Option Plan) : Keeps (State.HasPlan p) where
  toKeepsLive := State.hasPlan_keepsLive p
  curtailment _ _ h := h
  remap _ _ _ h _ := h
  clearMarks _ listed h := (State.plan_evaluateChanges _).trans (unmark_keeps (P := State.HasPlan p) (fun _ _ ht => ht) listed h)
  clock _ _ h _ := h
  resetNotices _ h := h
  taken _ h := h
  masked _ _ h := h
  threshold _ _ h _ := h
  port _ _ h _ := h
  staged _ _ h := h

/-- What no event on a lane touches is in `t` as in `s`. -/
def State.SameOffLane (s t : State) : Prop :=
  t.port = s.port ∧ t.staged = s.staged ∧ t.clock = s.clock ∧ t.curtailment = s.curtailment

theorem State.sameOffLane_keepsLive (s : State) : KeepsLive s.SameOffLane where
  modBay _ _ _ h _ := h
  modGrant _ _ _ h := h
  modUnit _ _ _ h _ := h
  modFeeder _ _ _ h _ := h
  modLane _ _ _ h _ := h
  modRecord _ _ _ h := h
  freeSlot _ _ _ h _ := h
  takeSlot _ _ _ _ h _ := h
  setMark _ _ h := h
  lists _ _ _ h := h
  ratioCount _ _ h _ := h
  deadlines _ _ h _ := h
  effective _ _ h := h
  sessions _ _ h := h
  raise _ _ h _ := h
  bump t c h := by simpa only [State.SameOffLane, State.port_bump, State.staged_bump, State.clock_bump, State.curtailment_bump]
    using h

/-- A lane's event is the end of the exchange on its line, or nothing. -/
theorem exec_laneEvent {c : Instr} (h : isLaneEvent c = true) (e : exec c s = .next t) :
    t = s ∨ ∃ l bytes, t = s.endExchange l bytes := by
  cases c with
  | report l frame | ack l frame | badReplyFrame l frame => cases e; exact .inr ⟨l, frame, rfl⟩
  | replyTimeout l => cases e; exact .inr ⟨l, [], rfl⟩
  | lateFrame l frame => cases e; exact .inl rfl
  | _ => cases h

end Sys2Proof.Machine

open Sys2Proof Sys2Proof.Machine

/-- Settles O58: lawfulness is closed under the leaf updates every command is made of. -/
theorem everyStepKeepsTheStateLawful : Obligations.EveryStepKeepsTheStateLawful :=
  fun _ _ h e => step_keeps (fun _ _ h => h) exec_lawful h e

/-- Settles O59: the books are closed under the leaf updates every command is made of. -/
theorem everyStepKeepsTheBooksLawful : Obligations.EveryStepKeepsTheBooksLawful :=
  fun _ _ h e => step_keeps (fun _ _ h => h) exec_booksLawful h e

/-- Settles O60: each of its parts is closed under the leaf updates of the commands it speaks of. -/
theorem nothingRunsBackward : Obligations.NothingRunsBackward := by
  intro c s t e notReset
  obtain ⟨clock, booking, session⟩ := s.notAhead_keeps.exec c s t (fun _ _ _ h => h) (fun _ _ _ _ h => h)
    (fun hr => absurd hr notReset) s.notAhead_refl e
  refine ⟨clock, booking, session, fun notSnapshot => ?_, fun notClosing => ?_, fun onLane => ?_⟩
  · exact s.countsOn_keeps.exec c s t (fun _ _ _ h => h) (fun v hv => absurd hv (notSnapshot v))
      (fun hr => absurd hr notReset) ⟨rfl, fun _ h => ⟨le_rfl, h⟩⟩ e
  · exact (State.hasPlan_keeps s.plan).exec c s t (fun hc => by simp [notClosing] at hc) (fun _ _ _ _ h => h)
      (fun hr => absurd hr notReset) rfl e
  · rcases exec_laneEvent onLane e with rfl | ⟨l, bytes, rfl⟩
    · exact ⟨rfl, rfl, rfl, rfl⟩
    · exact s.sameOffLane_keepsLive.endExchange s l bytes ⟨rfl, rfl, rfl, rfl⟩

end

section
/-! SUPPORT. The queue of commands (95), the state a hardware reset leaves (R187), the notices and counters by request (R188 to R192),
and the segments that do not complete a plan (R182). -/

-- One proof after another: side by side, the package as one text takes a thread and its stack for each.
set_option Elab.async false

namespace Sys2Proof.Machine

variable {s : State}

/-! ### The reset state -/

theorem State.resolve_reset (t : BitVec 16) : State.reset.resolve t = .stale := by
  simp [State.resolve, State.slot_reset']

theorem State.gateOpen_reset (f : FeederNo) : State.reset.gateOpen f = true := by
  simp [State.gateOpen, State.holdsGate, State.bay_reset', State.grant_reset']

theorem State.counter_reset (c : Counter) : State.reset.counter c = 0 := by
  simp [State.counter, State.reset]

theorem State.snapshot_reset (c : Counter) : State.reset.snapshot[c.index.val] = 0 := by
  simp [State.reset]

/-! ### Notices and counters by request -/

theorem exec_readNotices (h : s.takes .readNotices) : exec .readNotices s =
    .next (s.readNotices.1.answered .readNotices s.readNotices.2.status s.readNotices.2.body) :=
  exec_plain s .readNotices _ h

theorem exec_setNoticeMask (m : Byte) (h : s.takes (.setNoticeMask m)) : exec (.setNoticeMask m) s =
    .next ((s.setNoticeMask m).1.answered (.setNoticeMask m) (s.setNoticeMask m).2.status (s.setNoticeMask m).2.body) :=
  exec_plain s (.setNoticeMask m) _ h

theorem exec_setChangeThreshold (v : Byte) (h : s.takes (.setChangeThreshold v)) : exec (.setChangeThreshold v) s =
    .next ((s.setChangeThreshold v.toNat).1.answered (.setChangeThreshold v) (s.setChangeThreshold v.toNat).2.status
      (s.setChangeThreshold v.toNat).2.body) :=
  exec_plain s (.setChangeThreshold v) _ h

theorem exec_snapshotCounters (x : Byte) (h : s.takes (.snapshotCounters x)) : exec (.snapshotCounters x) s =
    .next ((s.snapshotCounters (x != 0)).1.answered (.snapshotCounters x) (s.snapshotCounters (x != 0)).2.status
      (s.snapshotCounters (x != 0)).2.body) :=
  exec_plain s (.snapshotCounters x) _ h

/-- A mask byte in range has its value in six bits. -/
theorem toNat_setWidth_mask {m : Byte} (h : m.toNat ≤ 63) : (m.setWidth 6).toNat = m.toNat := by
  rw [BitVec.toNat_setWidth]
  exact Nat.mod_eq_of_lt (by omega)

/-- The evaluation of CHANGES, field by field (R189). -/
theorem Notices.evaluate_eq (n : Notices) (count : Nat) :
    n.evaluate count = { n with
      status := if n.threshold ≤ count then n.status ||| 1 else if count = 0 then n.status &&& ~~~1 else n.status
      lineLow := if n.threshold ≤ count ∨ count = 0 then
          ((if n.threshold ≤ count then n.status ||| 1 else if count = 0 then n.status &&& ~~~1 else n.status) &&& ~~~n.mask) != 0
        else n.lineLow } := by
  unfold Notices.evaluate
  by_cases reached : n.threshold ≤ count
  · simp [reached, Notices.raise, Notices.drive, Notice.word, Notice.bit]
  · by_cases zero : count = 0
    · subst zero
      simp only [reached, if_false, if_true, or_true]
      rfl
    · simp [reached, zero]

/-! ### Segments -/

theorem exec_loadPlanFirst (body : List Byte) (h : s.takes (.loadPlanFirst body)) : exec (.loadPlanFirst body) s =
    .next ((s.firstSegment body).1.answered (.loadPlanFirst body) (s.firstSegment body).2.status (s.firstSegment body).2.body) :=
  exec_plain s (.loadPlanFirst body) _ h

theorem exec_loadPlanMiddle (body : List Byte) (h : s.takes (.loadPlanMiddle body)) : exec (.loadPlanMiddle body) s =
    .next ((s.middleSegment body).1.answered (.loadPlanMiddle body) (s.middleSegment body).2.status
      (s.middleSegment body).2.body) :=
  exec_plain s (.loadPlanMiddle body) _ h

/-- Whether a segment fits, as the two bounds of R182. -/
theorem State.segmentFits_iff (n : Nat) (body : List Byte) :
    s.segmentFits n body = true ↔ n < 64 ∧ s.staged.length + body.length ≤ 16384 := by
  simp only [State.segmentFits, Bool.and_eq_true, decide_eq_true_eq]
  exact Iff.rfl

end Sys2Proof.Machine

open Sys2Proof Sys2Proof.Machine

/-- Settles O1: both halves are the two arms of `step`. -/
theorem stepRunsTheFrontCommand : Obligations.StepRunsTheFrontCommand :=
  ⟨step_cons, fun _ => step_idle⟩

/-- Settles O2: the reset state's records are the defaults of their types, and it is lawful. -/
theorem hardwareResetLeavesTheResetState : Obligations.HardwareResetLeavesTheResetState := by
  have lawful : State.reset.Lawful := (State.lawful_reset []).congr rfl rfl rfl rfl rfl rfl rfl
  have books : State.reset.BooksLawful := State.booksLawful_of_reset rfl State.freeSlots_reset rfl rfl
  refine ⟨fun s => rfl, lawful, books, rfl, rfl, rfl, rfl, rfl, rfl, rfl, rfl, rfl,
    fun b => ?_, fun b => ?_, fun f => ?_, rfl, rfl, rfl, fun i => ?_, State.freeSlots_reset, rfl, State.markedCount_reset', State.resolve_reset,
    rfl, rfl, rfl, fun l => ?_, fun b => ?_, rfl, rfl, rfl, rfl, fun c => ⟨State.counter_reset c, State.snapshot_reset c⟩⟩
  · simp [State.bay_reset']
  · simp [State.grant_reset']
  · simp [State.feeder_reset', State.gateOpen_reset]
  · simp [State.slot_reset']
  · simp [State.lane_reset']
  · simp [State.unit_reset']

/-- Settles O55: the requests by their owner's answer, the evaluation of CHANGES field by field, and each flag's bit. -/
theorem noticesAndCountersFollowTheirRules : Obligations.NoticesAndCountersFollowTheirRules := by
  intro s n low with_
  refine ⟨fun taken => ?_, ?_, ?_, ?_, fun c => ?_, fun taken => ?_, fun taken => ?_⟩
  · rw [exec_readNotices taken]
    rfl
  · intro mask taken inRange m
    have value : (mask.setWidth 6).toNat = mask.toNat := toNat_setWidth_mask inRange
    rw [exec_setNoticeMask mask taken]
    show Host.Outcome.next (State.answered _ _ _ (le 1 (mask.setWidth 6).toNat ++ le 1 n.status.toNat)) = _
    rw [value]
    rfl
  · intro v taken _ _ status evaluated
    rw [exec_setChangeThreshold v taken]
    have evaluates : State.evaluateChanges { s with notices := { s.notices with threshold := v.toNat } } =
        with_ { n with threshold := v.toNat, status := status, lineLow := evaluated } :=
      congrArg with_ (Notices.evaluate_eq _ _)
    show Host.Outcome.next (State.answered (State.evaluateChanges _) _ _ (le 1 v.toNat ++ le 2 s.markedCount)) = _
    rw [evaluates]
    rfl
  · simp only [List.zipIdx_cons, List.zipIdx_nil, List.all_cons, List.all_nil, Bool.and_true, Bool.and_eq_true, beq_iff_eq]
    exact ⟨rfl, rfl, rfl, rfl, rfl, rfl⟩
  · apply State.ext <;> simp [State.counters_bump, State.notices_bump, satAdd, Config.max32, Config.counterHighMark]
  · exact exec_snapshotCounters 0 taken
  · exact exec_snapshotCounters 1 taken

/-- Settles O31: the answers of the segments that complete nothing, by whether a sequence is open and the segment fits it. -/
theorem segmentsBuildTheStagedPlan : Obligations.SegmentsBuildTheStagedPlan := by
  intro body s with_
  refine ⟨fun taken => ?_, fun n taken opened low fits => ?_, fun n opened exceeds => ?_, fun closed => ⟨fun taken => ?_, fun taken => ?_⟩⟩
  · rw [exec_loadPlanFirst body taken]
    rfl
  · have fits : s.segmentFits n body = true := State.segmentFits_iff n body |>.2 ⟨low, fits⟩
    rw [exec_loadPlanMiddle body taken, State.middleSegment, opened]
    simp only [fits, if_true]
    rfl
  · have exceeds : ¬ s.segmentFits n body = true := by rw [State.segmentFits_iff]; omega
    refine ⟨fun taken => ?_, fun taken => ?_⟩
    · rw [exec_loadPlanMiddle body taken, State.middleSegment, opened]
      simp only [exceeds]
      rfl
    · rw [exec_loadPlanLast body taken, State.lastSegment, opened]
      simp only [exceeds]
      rfl
  · rw [exec_loadPlanMiddle body taken, State.middleSegment, closed]
  · rw [exec_loadPlanLast body taken, State.lastSegment, closed]

end

section
/-! SUPPORT. The Booking Port (R173 to R181): the fields of a frame byte by byte, the catalogue of forms, a write transaction by the
verdict on its frame, and the ranges of check 8. -/

-- One proof after another: side by side, the package as one text takes a thread and its stack for each.
set_option Elab.async false

namespace Sys2Proof.Machine

variable {s : State}

/-! ### The opening bytes of a frame -/

theorem fieldAt_one (bytes : List Byte) (n : Nat) : fieldAt bytes n 1 = (bytes.getD n 0).toNat := by
  induction bytes generalizing n with
  | nil => simp [fieldAt, unle]
  | cons b bytes ih =>
    cases n with
    | zero => simp [fieldAt, unle]
    | succ n => simpa [fieldAt] using ih n

theorem fieldAt_two (bytes : List Byte) (n : Nat) :
    fieldAt bytes n 2 = (bytes.getD n 0).toNat + 256 * (bytes.getD (n + 1) 0).toNat := by
  induction bytes generalizing n with
  | nil => simp [fieldAt, unle]
  | cons b bytes ih =>
    cases n with
    | zero => cases bytes <;> simp [fieldAt, unle]
    | succ n => simpa [fieldAt] using ih n

theorem byteSum_eq_zero_iff (bytes : List Byte) : byteSum bytes = 0 ↔ (bytes.map (·.toNat)).sum % 256 = 0 := by
  rw [← byteSum_toNat, ← BitVec.toNat_inj]
  rfl

theorem getD_portFrame_zero (a b : Byte) (body : List Byte) : (portFrame a b body).getD 0 0 = a := by
  simp [portFrame]

/-- The code of a reply is the request's plus 0x80 (R177). -/
theorem ofNat_add_replyBit (k : Nat) : BitVec.ofNat 8 k + 0x80 = BitVec.ofNat 8 (k + 0x80) := by
  rw [BitVec.ofNat_add]
  rfl

/-! ### The catalogue of forms (R184, 12.2) -/

/-- The codes of the catalogue but LOAD PLAN's, each with its body length. -/
def catalogue : List (Nat × Nat) :=
  [(0x10, 22), (0x11, 15), (0x12, 2), (0x13, 2), (0x14, 2), (0x15, 5), (0x16, 0), (0x20, 2), (0x21, 3), (0x22, 2), (0x40, 1),
    (0x41, 6), (0x50, 4), (0x51, 0), (0x60, 0), (0x61, 1), (0x62, 1), (0x63, 1), (0x64, 0), (0x7F, 0)]

theorem formLength_of_mem {k n : Nat} (h : (k, n) ∈ catalogue) : formLength k = some (some n) := by
  simp only [catalogue, List.mem_cons, Prod.mk.injEq, List.not_mem_nil, or_false] at h
  obtain ⟨rfl, rfl⟩ | ⟨rfl, rfl⟩ | ⟨rfl, rfl⟩ | ⟨rfl, rfl⟩ | ⟨rfl, rfl⟩ | ⟨rfl, rfl⟩ | ⟨rfl, rfl⟩ | ⟨rfl, rfl⟩ | ⟨rfl, rfl⟩ |
    ⟨rfl, rfl⟩ | ⟨rfl, rfl⟩ | ⟨rfl, rfl⟩ | ⟨rfl, rfl⟩ | ⟨rfl, rfl⟩ | ⟨rfl, rfl⟩ | ⟨rfl, rfl⟩ | ⟨rfl, rfl⟩ | ⟨rfl, rfl⟩ |
    ⟨rfl, rfl⟩ | ⟨rfl, rfl⟩ := h <;> rfl

theorem mem_of_formLength {k n : Nat} (h : formLength k = some (some n)) : (k, n) ∈ catalogue := by
  unfold formLength at h
  split at h <;> cases h <;> decide

/-- A code is known when it is LOAD PLAN's or stands in the catalogue. -/
theorem isSome_formLength_iff (k : Nat) : (formLength k).isSome = true ↔ k = 0x30 ∨ ∃ n, (k, n) ∈ catalogue := by
  constructor
  · intro known
    obtain ⟨form, hform⟩ := Option.isSome_iff_exists.1 known
    cases form with
    | some n => exact .inr ⟨n, mem_of_formLength hform⟩
    | none =>
      unfold formLength at hform
      split at hform <;> cases hform
      exact .inl rfl
  · rintro (rfl | ⟨n, hn⟩)
    · rfl
    · rw [formLength_of_mem hn]; rfl

theorem length_of_mem_catalogue {k n : Nat} (h : (k, n) ∈ catalogue) : k < 256 ∧ k ≠ 0x30 ∧ n ≤ 22 := by
  have every : ∀ x ∈ catalogue, x.1 < 256 ∧ x.1 ≠ 0x30 ∧ x.2 ≤ 22 := by decide
  exact every _ h

/-- Every form of the catalogue reads as a request. -/
theorem readRequest_of_mem {k n : Nat} (h : (k, n) ∈ catalogue) (part : Nat) (body : List Byte) :
    ∃ c, readRequest k part body = some c := by
  simp only [catalogue, List.mem_cons, Prod.mk.injEq, List.not_mem_nil, or_false] at h
  obtain ⟨rfl, -⟩ | ⟨rfl, -⟩ | ⟨rfl, -⟩ | ⟨rfl, -⟩ | ⟨rfl, -⟩ | ⟨rfl, -⟩ | ⟨rfl, -⟩ | ⟨rfl, -⟩ | ⟨rfl, -⟩ |
    ⟨rfl, -⟩ | ⟨rfl, -⟩ | ⟨rfl, -⟩ | ⟨rfl, -⟩ | ⟨rfl, -⟩ | ⟨rfl, -⟩ | ⟨rfl, -⟩ | ⟨rfl, -⟩ | ⟨rfl, -⟩ |
    ⟨rfl, -⟩ | ⟨rfl, -⟩ := h <;> exact ⟨_, rfl⟩

/-- The count a reply to a reservation request opens with (R177). -/
theorem State.freeField_eq (s : State) (k : Nat) :
    s.freeField k = if 0x10 ≤ k ∧ k ≤ 0x16 then le 2 s.freeSlots.length else [] := by
  simp only [State.freeField, isReservationCode, inRange, Bool.and_eq_true, decide_eq_true_eq]
  rfl

/-! ### A write transaction by the verdict (R175, R178, R180) -/

/-- `s` with what a transaction in which `n` bytes follow the command shifts out: the status and 0x00s. -/
def State.shifted (s : State) (n : Nat) : State := s.shiftOut (s.port.state.code :: List.replicate n 0)

theorem exec_write (bytes : List Byte) (h : s.port.state ≠ .busy) :
    exec (.writeTransaction false bytes) s = .next (((s.shifted bytes.length).takeFrame bytes).checkFrame bytes) := by
  show execWriteTransaction false bytes s = _
  unfold execWriteTransaction
  cases hs : s.port.state with
  | busy => exact absurd hs h
  | ready | reply => simp [State.judgedState, hs, State.shifted]

/-- The verdict looks at the plan and the FREE slots alone. -/
theorem State.judgeFrame_takeFrame (s : State) (n : Nat) (bytes : List Byte) :
    ((s.shifted n).takeFrame bytes).judgeFrame bytes = s.judgeFrame bytes := rfl

/-- A frame that is answered at once (R178). -/
theorem exec_write_answer {bytes : List Byte} {status : Status} {body : List Byte} (h : s.port.state ≠ .busy)
    (fits : bytes.length ≤ 1024) (verdict : s.judgeFrame bytes = .answer status body) :
    exec (.writeTransaction false bytes) s =
      .next ((s.shifted bytes.length).withReply (portFrame (bytes.getD 0 0 + 0x80) status.code body)) := by
  have fits : ¬ Config.frameBufferBytes < bytes.length := Nat.not_lt.2 fits
  rw [exec_write bytes h, State.checkFrame]
  simp only [fits, if_false, State.judgeFrame_takeFrame, verdict, fieldAt_one, BitVec.ofNat_toNat]
  rfl

/-- A frame longer than the buffer is counted and answered BAD_LENGTH (R178, check 1). -/
theorem exec_write_long {bytes : List Byte} (h : s.port.state ≠ .busy) (long : 1024 < bytes.length) :
    exec (.writeTransaction false bytes) s =
      .next (((s.shifted bytes.length).bump .framesDiscarded).withReply
        (portFrame (bytes.getD 0 0 + 0x80) Status.badLength.code [])) := by
  have long : Config.frameBufferBytes < bytes.length := long
  rw [exec_write bytes h, State.checkFrame]
  simp only [long, if_true, fieldAt_one, BitVec.ofNat_toNat]
  apply congrArg
  apply State.ext <;>
    simp [State.reply, State.withReply, State.counters_bump, State.notices_bump, State.counter, State.takeFrame, replyCode,
      BitVec.setWidth_eq]
  rfl

/-- A frame handed to its owner as a request (R180). -/
theorem exec_write_request {bytes : List Byte} {c : Instr} (h : s.port.state ≠ .busy) (fits : bytes.length ≤ 1024)
    (verdict : s.judgeFrame bytes = .request c) :
    exec (.writeTransaction false bytes) s = .next
      { s with port := { s.port with
          state := .busy, reply := none, frame := bytes, request := some c
          shifted := s.port.state.code :: List.replicate bytes.length 0 } } := by
  have fits' : ¬ Config.frameBufferBytes < bytes.length := Nat.not_lt.2 fits
  have whole : bytes.take Config.frameBufferBytes = bytes := List.take_of_length_le fits
  rw [exec_write bytes h, State.checkFrame]
  simp only [fits', if_false, State.judgeFrame_takeFrame, verdict]
  simp only [State.handOver, State.takeFrame, whole]
  rfl

/-! ### Checks 2 to 6 of a frame in its order (R178) -/

/-- A frame whose length is what its length field says, within the largest body. -/
def Shaped (bytes : List Byte) : Prop :=
  let length := (bytes.getD 2 0).toNat + 256 * (bytes.getD 3 0).toNat
  5 ≤ bytes.length ∧ length ≤ 1016 ∧ bytes.length = length + 5

theorem shaped_iff (bytes : List Byte) :
    Shaped bytes ↔ ¬(bytes.length < 5 ∨ Config.maxBodyBytes < fieldAt bytes 2 2 ∨ bytes.length ≠ fieldAt bytes 2 2 + 5) := by
  rw [fieldAt_two]
  simp only [Shaped, Config.maxBodyBytes, Nat.reduceAdd]
  omega

theorem State.judgeFrame_sum {bytes : List Byte} (sum : (bytes.map (·.toNat)).sum % 256 ≠ 0) :
    s.judgeFrame bytes = .answer .badChecksum [] := by
  have : byteSum bytes ≠ 0 := fun e => sum ((byteSum_eq_zero_iff bytes).1 e)
  simp only [State.judgeFrame, ne_eq, this, not_false_eq_true, if_true]

theorem State.judgeFrame_unshaped {bytes : List Byte} (sum : (bytes.map (·.toNat)).sum % 256 = 0) (shape : ¬Shaped bytes) :
    s.judgeFrame bytes = .answer .badLength [] := by
  have := (byteSum_eq_zero_iff bytes).2 sum
  rw [shaped_iff, not_not] at shape
  simp only [State.judgeFrame, ne_eq, this, not_true_eq_false, if_false] at shape ⊢
  rw [if_pos shape]

/-- A frame of the right sum and shape is judged by its code, then its part, then its body. -/
theorem State.judgeFrame_shaped {bytes : List Byte} (sum : (bytes.map (·.toNat)).sum % 256 = 0) (shape : Shaped bytes) :
    s.judgeFrame bytes =
      if (formLength (bytes.getD 0 0).toNat).isNone then .answer .unknownRequest []
      else if 3 < (bytes.getD 1 0).toNat then .answer .badParameter (0 :: s.freeField (bytes.getD 0 0).toNat)
      else if (bytes.getD 0 0).toNat ≠ 0x30 ∧ (bytes.getD 1 0).toNat ≠ 0 then .answer .segmentOrder []
      else s.judgeBody (bytes.getD 0 0).toNat (bytes.getD 1 0).toNat ((bytes.drop 4).take (fieldAt bytes 2 2)) := by
  have := (byteSum_eq_zero_iff bytes).2 sum
  rw [shaped_iff] at shape
  simp only [State.judgeFrame, ne_eq, this, not_true_eq_false, if_false, fieldAt_one] at shape ⊢
  rw [if_neg shape]
  rfl

theorem isNone_formLength_iff (k : Nat) : (formLength k).isNone = true ↔ ¬(k = 0x30 ∨ ∃ n, (k, n) ∈ catalogue) := by
  rw [← isSome_formLength_iff]
  cases formLength k <;> simp

/-- A body of the wrong length for its form fails check 7. -/
theorem State.judgeBody_length {k n part : Nat} {body : List Byte} (known : (k, n) ∈ catalogue) (wrong : body.length ≠ n) :
    s.judgeBody k part body = .answer .badLength [] := by
  obtain ⟨c, hc⟩ := readRequest_of_mem known part body
  simp [State.judgeBody, formLength_of_mem known, hc, wrong]

/-! ### Checks 8 and 9 (R179, R194) -/

/-- No field is bad exactly when every field is in range. -/
theorem firstBad_eq_zero_iff (n : Nat) (fields : List Bool) : firstBad (n + 1) fields = 0 ↔ ∀ okay ∈ fields, okay = true := by
  induction fields generalizing n with
  | nil => simp [firstBad]
  | cons okay fields ih => cases okay <;> simp [firstBad, ih]

theorem firstBad_of_first {fields : List Bool} {m : Nat} (n : Nat) (bad : fields[m]? = some false)
    (before : ∀ j, j < m → fields[j]? = some true) : firstBad n fields = n + m := by
  induction fields generalizing n m with
  | nil => simp at bad
  | cons okay fields ih =>
    cases m with
    | zero =>
      obtain rfl : okay = false := by simpa using bad
      rfl
    | succ m =>
      obtain rfl : okay = true := by simpa using before 0 (Nat.succ_pos m)
      have rest := ih (n + 1) (by simpa using bad) fun j hj => by simpa using before (j + 1) (Nat.succ_lt_succ hj)
      simp only [firstBad, if_true, rest]
      omega

/-- A direction byte a request lays out is 0 or 1, so check 8 on the body is check 8 on the request. -/
theorem badBodyField_requestBody {c : Instr} {k : Nat} (hk : requestCode c = some k) :
    badBodyField k (requestBody c) c = badField c := by
  unfold badBodyField
  refine if_neg fun h => ?_
  obtain ⟨-, rfl, direction⟩ := h
  cases c <;> cases hk <;>
    simp [requestBody, fieldAt_next, fieldAt_whole] at direction

/-- A request of the catalogue's form is judged by its fields, then by the plan (R178, R179). -/
theorem State.judgeFrame_request {c : Instr} {k : Nat} (hk : requestCode c = some k) (hc : ∀ a d, c = .curtail a d → a ≠ 0)
    (fits : (requestBody c).length ≤ 1016) :
    s.judgeFrame (portFrame (BitVec.ofNat 8 k) (BitVec.ofNat 8 (requestPart c)) (requestBody c)) =
      if badField c ≠ 0 then .answer .badParameter (le 1 (badField c) ++ s.freeField k)
      else if needsPlan c && s.plan.isNone then .answer .noPlan (s.freeField k)
      else .request c := by
  obtain ⟨small, part, only, form⟩ := requestForm c k hk
  have known : (formLength k).isNone = false := by
    rcases form with form | ⟨-, form⟩ <;> rw [form] <;> rfl
  have order : ¬(k ≠ 0x30 ∧ requestPart c ≠ 0) := fun ⟨other, ne⟩ => ne (only other)
  rw [judgeFrame_portFrame s k _ _ small part fits, known, if_neg (by simp), if_neg order, State.judgeBody,
    readRequest_requestBody c k hk hc]
  rcases form with form | ⟨-, form⟩ <;> simp [form, badBodyField_requestBody hk]

theorem requestFrame_eq {c : Instr} {k : Nat} {f : List Byte} (hk : requestCode c = some k) (hf : requestFrame c = some f) :
    f = portFrame (BitVec.ofNat 8 k) (BitVec.ofNat 8 (requestPart c)) (requestBody c) := by
  simpa [requestFrame, hk] using hf.symm

theorem isFlagByte_eq (x : Byte) : isFlagByte x = inRange 0 1 x.toNat := by
  simp [isFlagByte, inRange]

theorem within_eq (lo hi x : Nat) : within lo hi x = inRange lo hi x := rfl

/-- A well-formed request has every field in range. -/
theorem badField_of_wellFormed {c : Instr} (h : c.wellFormed = true) : badField c = 0 := by
  cases c with
  | book q =>
    simp only [Instr.wellFormed, BookReq.wellFormed, isFlagByte_eq, within_eq, Bool.and_eq_true, and_assoc] at h
    simpa [badField, firstBad_eq_zero_iff] using h
  | amend q =>
    simp only [Instr.wellFormed, AmendReq.wellFormed, isFlagByte_eq, within_eq, Bool.and_eq_true, and_assoc] at h
    simpa [badField, firstBad_eq_zero_iff] using h
  | findCredential x => simpa [badField, firstBad_eq_zero_iff, Instr.wellFormed] using h
  | queryBay b | setBayServiceOut b | setBayServiceIn b | clearStranded b =>
    simpa only [badField, firstBad_eq_zero_iff, Instr.wellFormed, within_eq, List.forall_mem_singleton] using h
  | queryFeeder f => simpa only [badField, firstBad_eq_zero_iff, Instr.wellFormed, within_eq, List.forall_mem_singleton] using h
  | setNoticeMask m => simpa only [badField, firstBad_eq_zero_iff, Instr.wellFormed, within_eq, List.forall_mem_singleton] using h
  | setChangeThreshold v =>
    simpa only [badField, firstBad_eq_zero_iff, Instr.wellFormed, within_eq, List.forall_mem_singleton] using h
  | snapshotCounters x =>
    simpa only [badField, firstBad_eq_zero_iff, Instr.wellFormed, isFlagByte_eq, List.forall_mem_singleton] using h
  | curtail a d =>
    simp only [Instr.wellFormed, within_eq, Bool.and_eq_true] at h
    simp [badField, firstBad_eq_zero_iff, h.2]
  | _ => rfl

theorem curtail_amount_of_wellFormed {c : Instr} (h : c.wellFormed = true) : ∀ a d, c = .curtail a d → a ≠ 0 := by
  rintro a d rfl
  simp only [Instr.wellFormed, Bool.and_eq_true, bne_iff_ne, ne_eq] at h
  exact h.1

/-! ### SET BAY SERVICE with any direction byte -/

/-- Check 8 on SET BAY SERVICE: the bay's field first, then the direction's (R179, R194). -/
theorem State.judgeFrame_setBayService (s : State) {n d : Nat} (hn : n ≤ 65535) (hd : d ≤ 255) (bad : 511 < n ∨ 2 ≤ d) :
    s.judgeFrame (portFrame 0x21 0 (le 2 n ++ le 1 d)) = .answer .badParameter [if 511 < n then 1 else 2] := by
  have bay : fieldAt (le 2 n ++ le 1 d) 0 2 = n := by rw [fieldAt_head]; omega
  have direction : fieldAt (le 2 n ++ le 1 d) 2 1 = d := by
    rw [fieldAt_next _ _ _ _ _ le_rfl, fieldAt_whole]; omega
  have value : (BitVec.ofNat 16 n).toNat = n := by simp; omega
  have code : (0x21 : Byte) = BitVec.ofNat 8 0x21 := rfl
  have part : (0 : Byte) = BitVec.ofNat 8 0 := rfl
  rw [code, part, judgeFrame_portFrame s 0x21 0 _ (by norm_num) (by norm_num) (by simp)]
  have form : formLength 0x21 = some (some 3) := rfl
  have free : s.freeField 0x21 = [] := rfl
  have read : readRequest 0x21 0 (le 2 n ++ le 1 d) =
      some (if d = 0 then .setBayServiceOut (BitVec.ofNat 16 n) else .setBayServiceIn (BitVec.ofNat 16 n)) := by
    simp only [readRequest, bay, direction]
  have field : badField (if d = 0 then .setBayServiceOut (BitVec.ofNat 16 n) else .setBayServiceIn (BitVec.ofNat 16 n)) =
      if 511 < n then 1 else 0 := by
    split <;> simp only [badField, firstBad, inRange, value] <;> by_cases h : 511 < n <;> simp [h]
  have whole : badBodyField 0x21 (le 2 n ++ le 1 d)
      (if d = 0 then .setBayServiceOut (BitVec.ofNat 16 n) else .setBayServiceIn (BitVec.ofNat 16 n)) =
      if 511 < n then 1 else 2 := by
    rw [badBodyField, field, direction]
    by_cases h : 511 < n
    · simp [h]
    · have : 1 < d := by omega
      simp [h, this]
  simp only [form, Option.isNone_some, Bool.false_eq_true, if_false, ne_eq, not_true_eq_false, and_false,
    State.judgeBody, read, whole, free, List.length_append, length_le]
  by_cases h : 511 < n <;> simp [h, le]

/-! ### Requests and their owners (R180) -/

/-- Every request is served by its owner's event. -/
theorem exec_request {c : Instr} {k : Nat} (hk : requestCode c = some k) :
    ∃ event, ∀ s, exec c s = .next (s.serve c event) := by
  cases c <;> cases hk <;> exact ⟨_, fun _ => rfl⟩

end Sys2Proof.Machine

open Sys2Proof Sys2Proof.Machine

/-- Settles O3: a well-formed request's frame comes through checks 2 to 9 and is handed over. -/
theorem wellFormedRequestFramesAreTaken : Obligations.WellFormedRequestFramesAreTaken := by
  intro c f s hf wellFormed planned notBusy
  obtain ⟨k, hk, -⟩ := Option.map_eq_some_iff.1 hf
  have fits := requestBody_fits c wellFormed
  have hasPlan : ¬(needsPlan c && s.plan.isNone) = true := by
    rw [Bool.and_eq_true, Option.isNone_iff_eq_none]
    exact fun ⟨needs, noPlan⟩ => planned needs noPlan
  have verdict : s.judgeFrame f = .request c := by
    rw [requestFrame_eq hk hf, State.judgeFrame_request hk (curtail_amount_of_wellFormed wellFormed) fits,
      badField_of_wellFormed wellFormed, if_neg (by simp), if_neg hasPlan]
  have length : f.length ≤ 1024 := by
    rw [requestFrame_eq hk hf, length_portFrame]
    omega
  exact ⟨verdict, exec_write_request notBusy length verdict⟩

/-- Settles O4: the checks of `judgeFrame` in their order, each verdict an answer. -/
theorem failingFramesAreAnsweredInOrder : Obligations.FailingFramesAreAnsweredInOrder := by
  intro bytes s notBusy forms sum code part length shaped known free t answer
  have freeField : s.freeField code = free := s.freeField_eq code
  have answers {status : Status} {body : List Byte} (fits : bytes.length ≤ 1024)
      (verdict : s.judgeFrame bytes = .answer status body) :
      exec (.writeTransaction false bytes) s = .next (answer t status body) := exec_write_answer notBusy fits verdict
  have fits (h : shaped) : bytes.length ≤ 1024 := by obtain ⟨-, low, eq⟩ := h; omega
  have unknown : (formLength code).isNone = true ↔ ¬known := isNone_formLength_iff code
  have knows (h : known) : ¬(formLength code).isNone = true := fun e => unknown.1 e h
  refine ⟨exec_write_long notBusy, fun fit odd => answers fit (State.judgeFrame_sum odd),
    fun fit even shape => answers fit (State.judgeFrame_unshaped even shape), fun shape even hn => answers (fits shape) ?_,
    fun shape even hk high => answers (fits shape) ?_, fun shape even hk other low high => answers (fits shape) ?_,
    fun n shape even mem only wrong => answers (fits shape) ?_⟩
  · rw [State.judgeFrame_shaped even shape, if_pos (unknown.2 hn)]
  · rw [State.judgeFrame_shaped even shape, if_neg (knows hk), if_pos high, ← freeField]
  · have parted : part ≠ 0 := by omega
    rw [State.judgeFrame_shaped even shape, if_neg (knows hk), if_neg (by exact Nat.not_lt.2 high), if_pos ⟨other, parted⟩]
  · have small : ¬ 3 < part := by omega
    have whole : ¬(code ≠ 0x30 ∧ part ≠ 0) := fun h => h.2 only
    rw [State.judgeFrame_shaped even shape, if_neg (knows (.inr ⟨n, mem⟩)), if_neg small, if_neg whole]
    refine State.judgeBody_length mem ?_
    have size : fieldAt bytes 2 2 = length := fieldAt_two bytes 2
    have eq : bytes.length = length + 5 := shape.2.2
    rw [size, List.length_take, List.length_drop]
    omega

/-- Settles O5: `badField` is the first field out of its range, and the verdict on a request's frame follows it. -/
theorem fieldAndPlanChecksAreAnswered : Obligations.FieldAndPlanChecksAreAnswered := by
  unfold Obligations.FieldAndPlanChecksAreAnswered
  intro within flag fields asksForPlan
  have within_eq : within = inRange := by
    funext lo hi x
    exact Bool.decide_and _ _
  have flag_eq : flag = fun x => inRange 0 1 x.toNat := by
    funext x
    rw [Bool.eq_iff_iff]
    simp only [flag, inRange, Bool.and_eq_true, decide_eq_true_eq]
    bv_omega
  have badField_eq (c : Instr) : badField c = firstBad 1 (fields c) := by
    cases c with
    | book q | amend q | findCredential x | queryBay b | setBayServiceOut b | setBayServiceIn b | clearStranded b | queryFeeder f
    | curtail a d | setNoticeMask m | setChangeThreshold v | snapshotCounters x =>
      simp only [badField, fields, within_eq, flag_eq, bne, Bool.beq_eq_decide_eq, decide_not]
    | _ => rfl
  have fits {c : Instr} {k : Nat} (hk : requestCode c = some k) (ne : fields c ≠ [] ∨ asksForPlan c = true) :
      (requestBody c).length ≤ 1016 := by
    cases c <;> cases hk <;> simp [requestBody, fields, asksForPlan] at ne ⊢
  refine ⟨fun c k f s hk hf notBusy => ?_, ?_⟩
  · intro t free
    have freeField : s.freeField k = free := s.freeField_eq k
    have frame := requestFrame_eq hk hf
    have answers {status : Status} {body : List Byte} (hfit : (requestBody c).length ≤ 1016)
        (verdict : s.judgeFrame f = .answer status body) :
        exec (.writeTransaction false f) s = .next (t.withReply (portFrame (BitVec.ofNat 8 (k + 0x80)) status.code body)) := by
      have length : f.length ≤ 1024 := by rw [frame, length_portFrame]; omega
      have code : f.getD 0 0 = BitVec.ofNat 8 k := by rw [frame, getD_portFrame_zero]
      rw [exec_write_answer notBusy length verdict, code, ofNat_add_replyBit]
      rfl
    have curtails (bad : ¬ ∀ okay ∈ fields c, okay = true) : ∀ a d, c = .curtail a d → a ≠ 0 := by
      rintro a d rfl rfl
      exact bad (by simp [fields])
    refine ⟨by cases c <;> rfl, fun n bad before => ?_, fun all => ?_⟩
    · have field : badField c = n + 1 := by rw [badField_eq, firstBad_of_first 1 bad before, Nat.add_comm]
      have some_bad : ¬ ∀ okay ∈ fields c, okay = true := fun all => by
        simpa using all false (List.mem_of_getElem? bad)
      have hfit := fits hk (.inl fun e => by simp [e] at bad)
      refine ⟨field, answers hfit ?_⟩
      rw [frame, State.judgeFrame_request hk (curtails some_bad) hfit, field, if_pos (Nat.succ_ne_zero n), freeField]
    · have field : badField c = 0 := by rw [badField_eq]; exact (firstBad_eq_zero_iff 0 _).2 all
      refine ⟨field, fun asks noPlan => ?_⟩
      have hfit := fits hk (.inr asks)
      have needs : needsPlan c = true := by cases c <;> cases asks <;> rfl
      have curtails : ∀ a d, c = .curtail a d → a ≠ 0 := by rintro a d rfl; cases asks
      refine answers hfit ?_
      rw [frame, State.judgeFrame_request hk curtails hfit, field, if_neg (by simp), needs, noPlan, freeField]
      rfl
  · intro n d s hn hd notBusy f ends
    have length : f.length ≤ 1024 := by rw [length_portFrame]; simp
    have code : f.getD 0 0 + 0x80 = 0xA1 := by rw [getD_portFrame_zero]; rfl
    have answers (bad : 511 < n ∨ 2 ≤ d) : ends (if 511 < n then 1 else 2) := by
      have answered := exec_write_answer notBusy length (s.judgeFrame_setBayService hn hd bad)
      rw [code] at answered
      exact answered
    refine ⟨fun high => ?_, fun low bad => ?_⟩
    · have := answers (.inl high)
      rwa [if_pos high] at this
    · have := answers (.inr bad)
      rwa [if_neg (Nat.not_lt.2 low)] at this

/-- Settles O6: reads and ignored transactions by the state the port is judged by. -/
theorem readsAndIgnoredTransactions : Obligations.ReadsAndIgnoredTransactions := by
  intro count s
  have busy {begunBusy : Bool} (h : begunBusy = true ∨ s.port.state = .busy) : s.judgedState begunBusy = .busy := by
    rcases h with rfl | h
    · rfl
    · simp [State.judgedState, h]
  refine ⟨fun frame opened reply => ?_, fun opened => ?_, fun begunBusy h => ?_, fun begunBusy bytes h => ?_,
    fun command _ _ => ⟨rfl, rfl⟩⟩
  · have judged : s.judgedState false = .reply := opened
    show ∃ t, execReadTransaction false count s = .next t ∧ _
    simp only [execReadTransaction, judged, reply]
    have out (k : Nat) (hk : k < count) :
        ((frame ++ List.replicate (count - frame.length) 0).take count)[k]? = some (frame.getD k 0) := by
      rw [List.getElem?_take_of_lt hk, List.getElem?_append, List.getD_eq_getElem?_getD]
      by_cases inside : k < frame.length
      · simp [inside]
      · have : k - frame.length < count - frame.length := by omega
        simp [inside, this]
    have length : ((frame ++ List.replicate (count - frame.length) (0 : Byte)).take count).length = count := by
      simp; omega
    by_cases full : frame.length ≤ count
    · rw [if_pos full]
      exact ⟨_, rfl, by simpa [State.shiftOut] using length, rfl, out, fun _ => ⟨rfl, rfl⟩, fun h => absurd h (Nat.not_lt.2 full),
        rfl, rfl, rfl, rfl⟩
    · rw [if_neg full]
      exact ⟨_, rfl, by simpa [State.shiftOut] using length, rfl, out, fun h => absurd h full, fun _ => ⟨opened, reply⟩,
        rfl, rfl, rfl, rfl⟩
  · show execReadTransaction false count s = _
    have judged : s.judgedState false = .ready := opened
    simp only [execReadTransaction, judged]
    rfl
  · show execReadTransaction begunBusy count s = _
    simp only [execReadTransaction, busy h]
    rfl
  · show execWriteTransaction begunBusy bytes s = _
    simp only [execWriteTransaction, busy h]
    rfl

/-- Settles O7: an owner serves the request the port holds, and no other. -/
theorem ownersAnswerEveryRequest : Obligations.OwnersAnswerEveryRequest := by
  refine ⟨fun c k s hk => ?_, fun first second body => ⟨?_, length_portFrame first second body⟩⟩
  · obtain ⟨event, serves⟩ := exec_request hk
    refine ⟨fun other => ?_, fun taken => ?_⟩
    · rw [serves, State.serve_other s c event other]
    · refine ⟨_, (event s).2.status, (event s).2.body, by rw [serves, State.serve_takes s c event taken], rfl, rfl, rfl, ?_⟩
      show some (portFrame (replyCode (BitVec.ofNat 8 ((requestCode c).getD 0))) _ _) = _
      rw [hk, Option.getD_some, replyCode, ofNat_add_replyBit, State.freeField_eq]
      rfl
  · rw [← byteSum_eq_zero_iff, byteSum_portFrame]

end

section
/-! SUPPORT. The life of a record (chapter 3, R86, R94, R95, R102 to R106): a retirement, an engagement, a re-homing, an offer and a
creation, each as the record of the state it leaves. -/

-- One proof after another: side by side, the package as one text takes a thread and its stack for each.
set_option Elab.async false

namespace Sys2Proof.Machine

variable {s : State} {i : SlotNo} {b : BayNo} {r : Reservation} {p : BayPlan} {plan : Plan}

/-! ### Records, marks and counts -/

theorem State.modRecord_live (h : s.record i = some r) (f : Reservation → Reservation) :
    s.modRecord i f = { s with slots := s.slots.set i.val { s.slot i with record := some (f r) } } := by
  have h' : s.slots[i.val].record = some r := h
  simp [State.modRecord, State.modSlot, State.slot, h']

/-- The marked count is read from the slots alone. -/
theorem State.markedCount_congr {t u : State} (h : t.slots = u.slots) : t.markedCount = u.markedCount := by
  simp only [State.markedCount, h]

/-- A mark set, written out: the slot and the notices (R56). -/
theorem State.setMark_eq (s : State) (i : SlotNo) :
    s.setMark i = { s.modSlot i (fun x => { x with mark := true }) with
      notices := s.notices.evaluate (s.modSlot i fun x => { x with mark := true }).markedCount } := rfl

@[simp] theorem dueIn_startDeadline (k : DeadlineKind) (o : Owner) (n m : Nat) : (s.startDeadline k o n).dueIn m = s.dueIn m := rfl

/-! ### Tickets (R49) -/

theorem priorGeneration_nextGeneration (g : Fin 64) : priorGeneration (nextGeneration g) = g := by
  ext
  simp only [priorGeneration, nextGeneration]
  omega

theorem ticketSlot_eq {t : BitVec 16} {g : Nat} (h : t.toNat = i.val + 1024 * g) : ticketSlot t = i := by
  ext
  simp only [ticketSlot, h]
  omega

theorem ticketGeneration_eq {t : BitVec 16} {g : Fin 64} (h : t.toNat = i.val + 1024 * g.val) : ticketGeneration t = g := by
  ext
  simp only [ticketGeneration, h]
  omega

/-! ### Retirement (R54) -/

/-- `s` with the record of slot `i` gone from its slot, its list and the deadline list: what a retirement leaves but for the bay and
the notices. -/
def State.vacated (s : State) (i : SlotNo) (o : Ending) : State := { s with
  slots := s.slots.set i.val
    { record := none, lastOutcome := some o, mark := true
      generation := ⟨((s.slot i).generation.val + 1) % 64, by omega⟩ }
  freeSlots := s.freeSlots ++ [i]
  highList := s.highList.filter (· != i), normalList := s.normalList.filter (· != i)
  deadlines := s.deadlines.filter fun d => d.owner != .slot i }

theorem State.retire_unbound (hr : s.record i = some r) (hb : r.bay = none) (o : Ending) :
    s.retire i o = { s.vacated i o with notices := s.notices.evaluate (s.vacated i o).markedCount } := by
  simp only [State.retire, hr, State.unbind_unbound hr hb]
  rfl

theorem State.retire_planned (hr : s.record i = some r) (hb : r.bay = some b) (hp : (s.bay b).place = some p) (o : Ending) :
    s.retire i o = { s.vacated i o with
      notices := s.notices.evaluate (s.vacated i o).markedCount
      bays := s.bays.set b.val { s.bay b with bound := none, keptHold := false }
      feeders := s.feeders.set p.feeder.val
        { s.feeder p.feeder with pledge := (s.feeder p.feeder).pledge - p.pmin } } := by
  simp only [State.retire, hr, State.unbind_planned hr hb hp]
  have slots : ∀ x y : Slot, (s.slots.set i.val x).set i.val y = s.slots.set i.val y := by simp
  apply State.ext <;>
    simp [State.vacated, State.freeSlot, State.leaveLists, State.dropDeadline, State.evaluateChanges, State.slot, nextGeneration,
      State.markedCount, slots]

theorem State.slot_retire (hr : s.record i = some r) (o : Ending) : (s.retire i o).slot i =
    { record := none, lastOutcome := some o, mark := true, generation := nextGeneration (s.slot i).generation } := by
  have generation : ((s.unbind i).slots[i.val]).generation = s.slots[i.val].generation := by
    unfold State.unbind
    split
    · rfl
    · unfold State.modFeederOf
      split <;> simp [State.modBay, State.modFeeder, State.modRecord, State.modSlot]
  simp [State.retire, hr, State.freeSlot, State.evaluateChanges, State.slot, State.leaveLists, State.dropDeadline, generation]

/-- The ticket of a retired record answers its outcome (R49). -/
theorem State.resolve_retire (hr : s.record i = some r) (o : Ending) {t : BitVec 16}
    (ht : t.toNat = i.val + 1024 * (s.slot i).generation.val) : (s.retire i o).resolve t = .retired o := by
  simp [State.resolve, ticketSlot_eq ht, State.slot_retire hr, ticketGeneration_eq ht, priorGeneration_nextGeneration]

/-! ### Engagement (R86) -/

theorem State.engage_planned (hr : s.record i = some r) (hp : (s.bay b).place = some p) :
    s.engage i b =
      let pledge := (s.feeder p.feeder).pledge
      let u : State := { s with
        slots := s.slots.set i.val
          { s.slot i with
            record := some { r with state := .engaged, bay := some b, arrivedAt := some s.clock }, mark := true }
        bays := s.bays.set b.val
          { s.bay b with
            state := .engaged, aspect := .inUse, reason := none, keptHold := false
            bound := if r.bay = some b then (s.bay b).bound else some i }
        feeders := s.feeders.set p.feeder.val
          { s.feeder p.feeder with pledge := if r.bay = some b then pledge else pledge + p.pmin }
        deadlines := insertByDue ⟨.stayEnd, .slot i, min (s.clock + r.stay) 0xFFFFFFFF⟩
          ((s.deadlines.filter fun d => d.owner != .bay b).filter fun d => d.owner != .slot i) }
      { u with notices := s.notices.evaluate u.markedCount } := by
  have hr' : s.slots[i.val].record = some r := hr
  unfold State.engage
  rw [hr]
  by_cases here : r.bay = some b
  · have same : { r with state := ResState.engaged, bay := some b, arrivedAt := some s.clock } =
        { r with state := .engaged, arrivedAt := some s.clock } := by rw [← here]
    simp only [here, if_true]
    apply State.ext <;>
      simp [State.setMark, State.evaluateChanges, State.modSlot, State.modRecord, State.modBay, State.startDeadline,
        State.setDeadline, State.dropDeadline, State.dueIn, satAdd, Config.max32, Bay.enter, BayState.aspect, State.slot, State.bay,
        State.feeder, State.markedCount, hr', same]
    exact (Vector.set_getElem_self _).symm
  · simp only [here, if_false, State.bind_planned hr hp]
    apply State.ext <;>
      simp [State.setMark, State.evaluateChanges, State.modSlot, State.modRecord, State.modBay, State.startDeadline,
        State.setDeadline, State.dropDeadline, State.dueIn, satAdd, Config.max32, Bay.enter, BayState.aspect, State.slot, State.bay,
        State.feeder, State.markedCount]

/-! ### Re-homing (R94, R95) -/

/-- `s` with the record of slot `i` unbound from planned bay `y`, and its deadline gone. -/
def State.left (s : State) (i : SlotNo) (r : Reservation) (y : BayNo) (p : BayPlan) : State := { s with
  slots := s.slots.set i.val { s.slot i with record := some { r with bay := none } }
  bays := s.bays.set y.val { s.bay y with bound := none, keptHold := false }
  feeders := s.feeders.set p.feeder.val { s.feeder p.feeder with pledge := (s.feeder p.feeder).pledge - p.pmin }
  deadlines := s.deadlines.filter fun d => d.owner != .slot i }

theorem State.unbind_drop_planned (hr : s.record i = some r) (hb : r.bay = some b) (hp : (s.bay b).place = some p) :
    (s.unbind i).dropDeadline (.slot i) = s.left i r b p := by
  rw [State.unbind_planned hr hb hp]
  rfl

theorem State.rehome_found {x : BayNo} (hr : s.record i = some r) (hb : r.bay = some b) (hp : (s.bay b).place = some p)
    (found : (s.left i r b p).select r.claim = some x) :
    s.rehome i = (((s.left i r b p).holdAt i x r.hold).setMark i).bump .reHomes := by
  simp only [State.rehome, hr, State.unbind_drop_planned hr hb hp, found]

theorem State.rehome_waits (hr : s.record i = some r) (hb : r.bay = some b) (hp : (s.bay b).place = some p)
    (lost : (s.left i r b p).select r.claim = none) (wait : 0 < r.wait) :
    s.rehome i = ((s.left i r b p).startWaiting i r.wait).setMark i := by
  simp only [State.rehome, hr, State.unbind_drop_planned hr hb hp, lost, wait, if_true]

theorem State.rehome_retires (hr : s.record i = some r) (hb : r.bay = some b) (hp : (s.bay b).place = some p)
    (lost : (s.left i r b p).select r.claim = none) (wait : r.wait = 0) :
    s.rehome i = ((s.left i r b p).retire i .noShow).bump .noShows := by
  simp only [State.rehome, hr, State.unbind_drop_planned hr hb hp, lost, wait, Nat.lt_irrefl, if_false]

/-! ### The service of a freed bay (R102 to R106) -/

theorem RatioSetting.bound_eq_some (ratio : RatioSetting) (n : Nat) :
    ratio.bound = some n ↔ ratio = .eightToOne ∧ n = 8 ∨ ratio = .fourToOne ∧ n = 4 ∨ ratio = .twoToOne ∧ n = 2 := by
  cases ratio <;> simp [RatioSetting.bound, eq_comm]

/-- The record placed, its bay, its deadline, mark and count (R106). -/
theorem State.placeWaiting_planned (hr : s.record i = some r) (hp : (s.bay b).place = some p) :
    s.placeWaiting i b =
      let u : State := { s with
        highList := s.highList.filter (· != i), normalList := s.normalList.filter (· != i)
        slots := s.slots.set i.val
          { s.slot i with record := some { r with state := .held, bay := some b }, mark := true }
        bays := s.bays.set b.val { s.bay b with state := .held, aspect := .reserved, reason := none, bound := some i }
        feeders := s.feeders.set p.feeder.val
          { s.feeder p.feeder with pledge := (s.feeder p.feeder).pledge + p.pmin }
        deadlines := insertByDue ⟨.holdEnd, .slot i, min (s.clock + r.hold) 0xFFFFFFFF⟩
          (s.deadlines.filter fun d => d.owner != .slot i) }
      ({ u with notices := s.notices.evaluate u.markedCount } : State).bump .placedFromWaiting := by
  have away : ((s.leaveLists i).dropDeadline (.slot i)).record i = some r := hr
  unfold State.placeWaiting
  rw [hr]
  simp only
  rw [State.holdAt_planned _ away hp]
  refine congrArg (State.bump · .placedFromWaiting) ?_
  apply State.ext <;>
    simp [State.setMark, State.evaluateChanges, State.modSlot, State.dueIn, satAdd, Config.max32, State.slot, State.bay,
      State.feeder, State.markedCount, State.leaveLists, State.dropDeadline]

theorem State.offer_eq (h : s.plan = some plan) :
    s.offer b =
      let served := serveRatio plan.site.ratio s.ratioCount (s.highList.find? (s.fits b)) (s.normalList.find? (s.fits b))
      match served.1 with
      | some i => ({ s with ratioCount := served.2 } : State).placeWaiting i b
      | none => { s with ratioCount := served.2 } := by
  unfold State.offer
  rw [h] <;> rfl

end Sys2Proof.Machine

open Sys2Proof Sys2Proof.Machine

/-- Settles O20: the steps of a retirement, its record unbound or bound to a planned bay, and the ticket it leaves. -/
theorem retirementTakesItsSteps : Obligations.RetirementTakesItsSteps := fun _ _ _ _ hr =>
  ⟨fun hb => State.retire_unbound hr hb _, fun _ _ hb hp => State.retire_planned hr hb hp _, fun _ ht => State.resolve_retire hr _ ht⟩

/-- Settles O25: an engagement, the record bound at the bay already or not. -/
theorem engagingBindsRecordAndBay : Obligations.EngagingBindsRecordAndBay := fun _ _ _ _ _ hr hp => State.engage_planned hr hp

/-- Settles O27: what selection finds, and the wait limit, decide the end of a re-homing. -/
theorem rehomingEndsInOneOfThreeWays : Obligations.RehomingEndsInOneOfThreeWays := by
  intro s i r y p hr hb hp
  exact ⟨fun b => State.rehome_found hr hb hp, State.rehome_waits hr hb hp, State.rehome_retires hr hb hp⟩

/-- Settles O24: the service by the ratio table, and the placement of the record served. -/
theorem anOfferServesOneCandidate : Obligations.AnOfferServesOneCandidate := by
  refine ⟨fun ratio count hs ks high normal => ⟨ratio.bound_eq_some, rfl, rfl, ?_, ?_, ?_, ?_, ?_⟩,
    fun s b p plan hplan hp => ⟨fun nobody => ?_, fun i r served hr => ?_⟩⟩
  · intro n hn below
    unfold serveRatio
    simp [hn, below]
  · intro n hn
    unfold serveRatio
    simp [hn]
  · intro n hn
    unfold serveRatio
    simp [hn]
  · unfold serveRatio
    cases ratio.bound <;> simp
  · unfold serveRatio
    cases ratio.bound <;> simp
  · rw [State.offer_eq hplan]
    simp only [nobody]
  · rw [State.offer_eq hplan]
    simp only [served]
    exact State.placeWaiting_planned hr hp

end

section
/-! SUPPORT. The reservation requests (R57 to R67): what BOOK, CANCEL and RELEASE do to the table, the place of a record in line, the
marks a LIST CHANGES clears, and the fields of the reservation record. -/

-- One proof after another: side by side, the package as one text takes a thread and its stack for each.
set_option Elab.async false

namespace Sys2Proof.Machine

variable {s : State} {i : SlotNo} {b : BayNo} {r : Reservation} {p : BayPlan} {plan : Plan}

/-! ### Requests that leave the lamps alone -/

/-- A request whose event changes no bay is answered on the state the event leaves. -/
theorem State.taken_of_bays {c : Instr} {e : State × Answer} (h : e.1.bays = s.bays) :
    s.taken c e = .next (e.1.answered c e.2.status e.2.body) := by
  rw [State.taken, aspectOrders_bays h]

theorem bayNo?_of {n : BitVec 16} (h : n.toNat = b.val) : bayNo? n = some b := by
  unfold bayNo?
  rw [dif_pos (by omega)]
  exact congrArg some (Fin.ext h)

/-- An aspect order changes the lanes alone. -/
theorem State.aspectOrder_eq (s : State) (b : BayNo) (flash : Bool) :
    s.aspectOrder b flash = { s with lanes := (s.aspectOrder b flash).lanes } := by
  unfold State.aspectOrder
  split <;> rfl

/-- The lanes after an aspect order follow from the lanes and units before it. -/
theorem State.lanes_aspectOrder_congr {t u : State} (lanes : t.lanes = u.lanes) (units : t.units = u.units) (b : BayNo)
    (flash : Bool) : (t.aspectOrder b flash).lanes = (u.aspectOrder b flash).lanes := by
  unfold State.aspectOrder State.unit
  rw [units]
  split <;> simp [State.modLane, lanes]

/-- A counted event changes the counters and the notices, by what they were. -/
theorem State.bump_eq_of {t u : State} (counters : t.counters = u.counters) (notices : t.notices = u.notices) (c : Counter) :
    t.bump c = { t with counters := (u.bump c).counters, notices := (u.bump c).notices } := by
  unfold State.bump State.raise
  simp only [counters, notices]
  split <;> rfl

/-! ### Tickets that resolve to no record, and refusals by state (R49, R61, R65, R66) -/

theorem State.cancel_stale {t : BitVec 16} (h : ∀ i r, s.resolve t ≠ .live i r) : s.cancel t = (s, ⟨.staleTicket, []⟩) := by
  unfold State.cancel
  cases hr : s.resolve t with
  | live i r => exact absurd hr (h i r)
  | retired o | stale => rfl

theorem State.release_stale {t : BitVec 16} (h : ∀ i r, s.resolve t ≠ .live i r) : s.release t = (s, ⟨.staleTicket, []⟩) := by
  unfold State.release
  cases hr : s.resolve t with
  | live i r => exact absurd hr (h i r)
  | retired o | stale => rfl

theorem State.amend_stale {q : AmendReq} (h : ∀ i r, s.resolve q.ticket ≠ .live i r) :
    s.amend q = (s, ⟨.staleTicket, []⟩) := by
  unfold State.amend
  cases hr : s.resolve q.ticket with
  | live i r => exact absurd hr (h i r)
  | retired o | stale => rfl

/-- The fields an AMEND may carry in a record's state (R61). -/
theorem amendAllowed_iff (q : AmendReq) (st : ResState) :
    amendAllowed q st = true ↔ (q.holdPresent ≠ 0 → st = .held) ∧ (q.stayPresent ≠ 0 → st = .engaged ∨ st = .charging) ∧
      (q.maskPresent ≠ 0 → st = .waiting ∨ st = .held) := by
  cases st <;> simp [amendAllowed, and_assoc]

/-! ### CANCEL and RELEASE of a live record -/

theorem State.cancel_live {t : BitVec 16} (hr : s.resolve t = .live i r) (st : r.state = .waiting ∨ r.state = .held) :
    s.cancel t = (s.cancelRecord i r, ⟨.ok, []⟩) := by
  unfold State.cancel
  rcases st with st | st <;> simp [hr, st]

theorem State.release_live {t : BitVec 16} (hr : s.resolve t = .live i r)
    (st : r.state = .engaged ∨ r.state = .charging ∨ r.state = .overstay) :
    s.release t = (takeRun (s.releaseRecord i r), ⟨.ok, [7]⟩) := by
  unfold State.release
  rcases st with st | st | st <;> simp only [hr, st] <;> rfl

theorem State.bays_retire_unbound (hr : s.record i = some r) (hb : r.bay = none) (o : Ending) :
    (s.retire i o).bays = s.bays := by
  rw [State.retire_unbound hr hb]
  rfl

/-- The retirement of a record unbinds its bay and leaves every lamp as it was. -/
theorem State.bay_retire (hr : s.record i = some r) (o : Ending) (x : BayNo) :
    (s.retire i o).bay x = if r.bay = some x then { s.bay x with bound := none, keptHold := false } else s.bay x := by
  have bays : (s.retire i o).bay x = (s.unbind i).bay x := by
    simp only [State.retire, hr]
    rfl
  rw [bays]
  unfold State.unbind
  simp only [hr, Option.bind_some]
  cases hb : r.bay with
  | none => simp
  | some y =>
    have feeder (t : State) (g : Feeder → Feeder) : (t.modFeederOf y g).bay x = t.bay x := by
      unfold State.modFeederOf
      split <;> rfl
    simp only [feeder, Option.some.injEq]
    by_cases h : y = x
    · subst h
      simp
    · simp [h, State.bay_modBay_ne _ _ _ _ (Ne.symm h)]

theorem State.aspect_retire (hr : s.record i = some r) (o : Ending) (x : BayNo) :
    ((s.retire i o).bay x).aspect = (s.bay x).aspect := by
  rw [State.bay_retire hr]
  split <;> rfl

/-- No session runs at a bay whose bound record is not CHARGING. -/
theorem State.charging_eq_false (hb : (s.bay b).bound = some i) (hr : s.record i = some r) (st : r.state ≠ .charging) :
    s.charging b = false := by
  simp [State.charging, State.sessionAt, hb, hr, st]

theorem State.charging_eq_true (hb : (s.bay b).bound = some i) (hr : s.record i = some r) (st : r.state = .charging) :
    s.charging b = true := by
  simp [State.charging, State.sessionAt, hb, hr, st]

theorem State.endSession_idle (h : s.charging b = false) (stop mark : Bool) : s.endSession b stop mark = s := by
  have : s.sessionAt b = none := by simpa [State.charging] using h
  simp [State.endSession, this]

/-! ### Creation (R48, R51, R52, R58) -/

theorem State.priorityOf_plan (h : s.plan = some plan) (cls : VehicleClass) :
    s.priorityOf cls = match cls with | .accessible => .high | .pub => .normal | .fleet => plan.site.fleetPriority := by
  cases cls <;> simp [State.priorityOf, h]

/-- The record a BOOK creates, before it is HELD (R48, R51, R58). -/
def State.booked (s : State) (plan : Plan) (q : BookReq) : Reservation :=
  let entry := longestPrefix plan.allotments q.credential
  let cls := match entry with | some (_, a) => a.cls | none => VehicleClass.ofCode q.cls.toNat
  { state := .waiting, credential := q.credential, cls := cls
    priority := match cls with | .accessible => .high | .pub => .normal | .fleet => plan.site.fleetPriority
    large := q.large != 0, zoneMask := q.zoneMask, hold := q.hold.toNat, wait := q.wait.toNat, stay := q.stay.toNat
    cap := if q.capPresent = 0 then none else some q.cap.toNat
    bay := none, allotment := entry.map (·.1), seq := s.bookingSeq, created := s.creations
    arrivedAt := none, session := none, sessionDone := false, stayExhausted := false, migrations := 0 }

theorem State.newRecord_wouldBe (h : s.plan = some plan) (q : BookReq) : s.newRecord (s.wouldBe q) = s.booked plan q := by
  simp only [State.newRecord, State.wouldBe, State.booked, State.allotments, h, Option.map_some, Option.getD_some,
    State.priorityOf_plan h] <;> rfl

theorem State.create_head (n : NewRecord) {rest : List SlotNo} (head : s.freeSlots = i :: rest) :
    s.create n = some (i, s.takeSlot i rest (s.newRecord n)) := by
  simp [State.create, head]

@[simp] theorem State.record_takeSlot_self (rest : List SlotNo) (r : Reservation) :
    (s.takeSlot i rest r).record i = some r := by
  simp [State.record, State.slot, State.takeSlot]

/-- A record created in slot `i` and HELD at a planned bay (R51, R52, R59). -/
theorem State.holdAt_takeSlot (rest : List SlotNo) (x : Reservation) (hold : Nat) (hp : (s.bay b).place = some p) :
    (s.takeSlot i rest x).holdAt i b hold = { s with
      slots := s.slots.set i.val { s.slot i with record := some { x with state := .held, bay := some b }, lastOutcome := none }
      freeSlots := rest
      bookingSeq := min (s.bookingSeq + 1) 0xFFFFFFFFFFFF
      creations := s.creations + 1
      bays := s.bays.set b.val { s.bay b with state := .held, aspect := .reserved, reason := none, bound := some i }
      feeders := s.feeders.set p.feeder.val
        { s.feeder p.feeder with pledge := (s.feeder p.feeder).pledge + p.pmin }
      deadlines := insertByDue ⟨.holdEnd, .slot i, min (s.clock + hold) 0xFFFFFFFF⟩
        (s.deadlines.filter fun d => d.owner != .slot i) } := by
  rw [State.holdAt_planned (b := b) (p := p) hold (State.record_takeSlot_self rest x) hp]
  apply State.ext <;> simp [State.takeSlot, State.slot, satAdd, Config.maxBookingSeq] <;> rfl

/-- A reservation record is read from the slot, the deadlines and the lists. -/
theorem State.reservationRecord_congr {t u : State} (slot : t.slot i = u.slot i) (deadlines : t.deadlines = u.deadlines)
    (high : t.highList = u.highList) (normal : t.normalList = u.normalList) :
    t.reservationRecord i r = u.reservationRecord i r := by
  have ticket : t.ticket i = u.ticket i := by simp only [State.ticket, slot]
  have deadline : t.deadlineOf (.slot i) = u.deadlineOf (.slot i) := by simp only [State.deadlineOf, deadlines]
  have place : t.listPlace i = u.listPlace i := by simp only [State.listPlace, high, normal]
  unfold State.reservationRecord
  rw [ticket, deadline, place, slot]

/-! ### A place in line (R51, R99) -/

/-- Whether the record of a slot stands ahead of one of `r`'s age. -/
def State.outranks (s : State) (r : Reservation) (j : SlotNo) : Bool :=
  match s.record j with
  | some x => !(decide (r.seq < x.seq) || (r.seq == x.seq && decide (r.created < x.created)))
  | none => true

theorem State.insertByAge_eq {t : State} (same : ∀ j, t.older i j = !s.outranks r j) (l : List SlotNo) :
    t.insertByAge i l = l.takeWhile (s.outranks r) ++ i :: l.dropWhile (s.outranks r) := by
  induction l with
  | nil => rfl
  | cons j js ih => cases h : s.outranks r j <;> simp [State.insertByAge, same, h, ih]

/-- A record of `r`'s age that has just been written into slot `i`, against the records of the others. -/
theorem State.older_eq_not_outranks {t : State} {x : Reservation} (hx : t.record i = some x) (seq : x.seq = r.seq)
    (created : x.created = r.created) (self : ∀ y, s.record i = some y → y.seq = r.seq ∧ y.created = r.created)
    (others : ∀ j, j ≠ i → t.record j = s.record j) (j : SlotNo) : t.older i j = !s.outranks r j := by
  by_cases h : j = i
  · subst h
    cases hy : s.record j with
    | none => simp [State.older, hx, State.outranks, hy]
    | some y =>
      obtain ⟨hs, hc⟩ := self y hy
      simp [State.older, hx, State.outranks, hy, hs, hc]
  · cases hy : s.record j <;> simp [State.older, hx, others j h, State.outranks, hy, seq, created]

/-- A record becomes WAITING: its state, its place on the list of its priority, its WAIT_END (R99, R100). -/
theorem State.startWaiting_eq {t : State} {x : Reservation} (hx : t.record i = some x) (seq : x.seq = r.seq)
    (created : x.created = r.created) (self : ∀ y, s.record i = some y → y.seq = r.seq ∧ y.created = r.created)
    (others : ∀ j, j ≠ i → t.record j = s.record j) (wait : Nat) :
    t.startWaiting i wait =
      let joined (l : List SlotNo) := l.takeWhile (s.outranks r) ++ i :: l.dropWhile (s.outranks r)
      { t with
        slots := t.slots.set i.val { t.slot i with record := some { x with state := .waiting } }
        highList := if x.priority = .high then joined t.highList else t.highList
        normalList := if x.priority = .high then t.normalList else joined t.normalList
        deadlines := insertByDue ⟨.waitEnd, .slot i, t.dueIn wait⟩ (t.deadlines.filter fun d => d.owner != .slot i) } := by
  have waits : (t.modRecord i fun x => { x with state := .waiting }).record i = some { x with state := .waiting } := by
    rw [State.modRecord_live hx]
    simp [State.record, State.slot]
  have places := State.insertByAge_eq (State.older_eq_not_outranks waits seq created self fun j h => by
    rw [← others j h]
    exact congrArg Slot.record (State.slot_modSlot_ne t i j _ h))
  unfold State.startWaiting State.joinList
  rw [waits]
  have slots : (t.modRecord i fun x => { x with state := .waiting }).slots =
      t.slots.set i.val { t.slot i with record := some { x with state := .waiting } } := by rw [State.modRecord_live hx]
  cases hp : x.priority <;> apply State.ext <;> simp [places, slots, hp, State.startDeadline, State.setDeadline, State.dueIn]

end Sys2Proof.Machine

open Sys2Proof Sys2Proof.Machine

/-- Settles O14: no ticket that is stale and no state the request does not take changes anything. -/
theorem staleTicketsAndWrongStatesChangeNothing : Obligations.StaleTicketsAndWrongStatesChangeNothing := by
  refine ⟨fun t s stale => ⟨fun taken => ?_, fun taken => ?_, ?_⟩, fun t s i r live => ⟨fun taken st => ?_, fun taken st => ?_, ?_⟩⟩
  · rw [exec_cancel t taken, State.cancel_stale stale]; exact State.taken_of_bays rfl
  · rw [exec_release t taken, State.release_stale stale]; exact State.taken_of_bays rfl
  · rintro q rfl taken
    rw [exec_amend taken, State.amend_stale stale]; exact State.taken_of_bays rfl
  · have refused : s.cancel t = (s, ⟨.wrongState, []⟩) := by
      unfold State.cancel
      rcases st with st | st | st <;> simp [live, st]
    rw [exec_cancel t taken, refused]; exact State.taken_of_bays rfl
  · have refused : s.release t = (s, ⟨.wrongState, []⟩) := by
      unfold State.release
      rcases st with st | st <;> simp [live, st]
    rw [exec_release t taken, refused]; exact State.taken_of_bays rfl
  · rintro q rfl taken st
    have barred : amendAllowed q r.state = false := by
      rw [← Bool.not_eq_true, amendAllowed_iff]
      tauto
    have refused : s.amend q = (s, ⟨.wrongState, []⟩) := by
      unfold State.amend
      simp [live, barred]
    rw [exec_amend taken, refused]; exact State.taken_of_bays rfl

/-- Settles O15: a retirement, then the bay by the state it had. -/
theorem cancelRetiresTheRecord : Obligations.CancelRetiresTheRecord := by
  intro t s i r taken live
  obtain ⟨-, hr, -⟩ := State.resolve_live live
  refine ⟨fun waiting hb => ?_, fun b held hb atHeld => ?_, fun b held hb identifying => ?_⟩
  · have event : s.cancelRecord i r = s.retire i .cancelled := by simp only [State.cancelRecord, hb]
    have bays : (s.retire i .cancelled).bays = s.bays := State.bays_retire_unbound hr hb _
    rw [exec_cancel t taken, State.cancel_live live (.inl waiting), event, State.taken_of_bays bays, State.retire_unbound hr hb]
    rfl
  · have event : s.cancelRecord i r = ((s.retire i .cancelled).enter b .free).offer b := by
      simp only [State.cancelRecord, hb, State.settleLeftBay, atHeld, if_true]
      rfl
    rw [exec_cancel t taken, State.cancel_live live (.inr held), event]
    rfl
  · have event : s.cancelRecord i r = s.retire i .cancelled := by
      simp [State.cancelRecord, hb, State.settleLeftBay, identifying]
    rw [exec_cancel t taken, State.cancel_live live (.inr held), event, State.taken,
      aspectOrders_same _ _ fun x _ => State.aspect_retire hr _ x]

/-- Settles O10: the refusals of BOOK change the counter alone. -/
theorem bookRefusalsCreateNothing : Obligations.BookRefusalsCreateNothing := by
  intro q s taken refused
  have answers {status : Status} {body : List Byte} (event : s.book q = s.refuseBooking status body) : refused status body := by
    show exec (.book q) s = _
    rw [exec_book taken, event]
    exact State.taken_of_bays (State.bays_bump _ _)
  refine ⟨fun none_free => answers ?_, fun i free found => answers ?_, fun b free absent pinned pin fails => answers ?_,
    fun free absent unpinned nothing waitless => answers ?_⟩
  · simp [State.book, none_free]
  · simp only [State.book, List.isEmpty_iff, free, if_false, found]
    rfl
  · simp only [State.book, List.isEmpty_iff, free, if_false, absent, pinned, bayNo?_of pin, State.bookPinned, fails,
      Bool.false_eq_true]
  · have waits : ¬ 0 < (s.wouldBe q).wait := by simp [State.wouldBe, waitless]
    simp only [State.book, List.isEmpty_iff, free, if_false, absent, unpinned, if_true, State.bookAnywhere, nothing, waits]

/-- Settles O8: the record created in the head slot and HELD at the bay of the pin, or of selection. -/
theorem bookHoldsABay : Obligations.BookHoldsABay := by
  intro q s i rest b p plan taken hplan head absent hp lawful finds entry cls r t
  have free : ¬s.freeSlots = [] := by simp [head]
  have atFree : (s.bay b).state = .free := by
    rcases finds with ⟨-, found⟩ | ⟨-, -, passes⟩
    · have := State.placementTest_of_select found
      simp only [State.placementTest, Bool.and_eq_true, beq_iff_eq] at this
      exact this.1.2
    · simp only [State.pinTest, Bool.and_eq_true, beq_iff_eq] at passes
      exact passes.1
  have event : s.book q = s.bookAt (s.wouldBe q) b := by
    rcases finds with ⟨unpinned, found⟩ | ⟨pinned, pin, passes⟩
    · simp only [State.book, List.isEmpty_iff, free, if_false, absent, unpinned, if_true, State.bookAnywhere, found]
    · simp only [State.book, List.isEmpty_iff, free, if_false, absent, pinned, bayNo?_of pin, State.bookPinned, passes, if_true]
  have unreasoned : (s.bay b).reason = none := Option.not_isSome_iff_eq_none.1 (by rw [lawful.2, atFree]; decide)
  have lamp : (s.bay b).aspect = .available := by simpa [atFree, BayState.aspect] using lawful.1
  have same : { s.bay b with state := .held, aspect := .reserved, bound := some i } =
      { s.bay b with state := .held, aspect := .reserved, reason := none, bound := some i } := by rw [← unreasoned]
  have before : ((s.takeSlot i rest (s.booked plan q)).holdAt i b q.hold.toNat).bump .bookingsAccepted =
      { t with lanes := s.lanes } := by
    rw [State.holdAt_takeSlot rest _ _ hp, State.bump_eq_of (u := s)]
    · simp only [t, same]
      rfl
    · rfl
    · rfl
  have accepted : s.bookAt (s.wouldBe q) b = ({ t with lanes := s.lanes }, ⟨.ok, t.reservationRecord i r⟩) := by
    have hi : State.record { t with lanes := s.lanes } i = some r := by simp [t, State.record, State.slot]
    simp only [State.bookAt, State.create_head _ head, State.newRecord_wouldBe hplan, State.acceptBooking]
    show (State.bump _ _, _) = _
    have hold : (s.wouldBe q).hold = q.hold.toNat := rfl
    rw [hold, before]
    simp only [hi]
    rfl
  have lamps : State.aspectOrders s { t with lanes := s.lanes } = t := by
    have others (x : BayNo) (h : x ≠ b) : (State.bay { t with lanes := s.lanes } x).aspect = (s.bay x).aspect := by
      have : b.val ≠ x.val := fun e => h (Fin.ext e.symm)
      simp [t, State.bay, this]
    have here : State.bay { t with lanes := s.lanes } b = { s.bay b with state := .held, aspect := .reserved, bound := some i } := by
      simp [t, State.bay]
    rw [aspectOrders_one _ _ b others, here, if_pos (by simp [hp, lamp]), State.aspectOrder_eq,
      State.lanes_aspectOrder_congr (u := s)] <;> rfl
  rw [exec_book taken, event, accepted, State.taken, lamps]

/-- Settles O9: the record created in the head slot, at its place in line. -/
theorem bookWaitsInLine : Obligations.BookWaitsInLine := by
  intro q s i rest plan taken hplan head absent vacant unpinned nothing waits entry cls r older joined t
  have free : ¬s.freeSlots = [] := by simp [head]
  have wait : 0 < (s.wouldBe q).wait := by
    rw [Nat.pos_iff_ne_zero]
    exact fun e => waits (BitVec.eq_of_toNat_eq e)
  have event : s.book q = s.bookWaiting (s.wouldBe q) := by
    simp only [State.book, List.isEmpty_iff, free, if_false, absent, unpinned, if_true, State.bookAnywhere, nothing, wait]
  have places : s.outranks r = older := by
    funext j
    rfl
  have before : ((s.takeSlot i rest r).startWaiting i q.wait.toNat).bump .bookingsAccepted = t := by
    rw [State.startWaiting_eq (s := s) (r := r) (State.record_takeSlot_self rest r) rfl rfl (by simp [vacant])
      fun j h => (record_takeSlot s i j rest r).trans (if_neg h), State.bump_eq_of (u := s), places]
    · apply State.ext <;> simp [t, joined, State.takeSlot, State.slot, satAdd, Config.maxBookingSeq] <;> rfl
    · rfl
    · rfl
  have accepted : s.bookWaiting (s.wouldBe q) = (t, ⟨.ok, t.reservationRecord i r⟩) := by
    have hi : t.record i = some r := by simp [t, State.record, State.slot]
    have wait : (s.wouldBe q).wait = q.wait.toNat := rfl
    have hr : s.newRecord (s.wouldBe q) = r := State.newRecord_wouldBe hplan q
    simp only [State.bookWaiting, State.create_head _ head, hr, State.acceptBooking, wait, before, hi]
  rw [exec_book taken, event, accepted]
  exact State.taken_of_bays rfl

end

section
/-! SUPPORT. RELEASE, LIST CHANGES and QUERY RESERVATION (R57, R66, R67): a released record's bay, the marks cleared, and the fields of
the reservation record. -/

-- One proof after another: side by side, the package as one text takes a thread and its stack for each.
set_option Elab.async false

namespace Sys2Proof.Machine

variable {s : State} {i : SlotNo} {b : BayNo} {r : Reservation} {p : BayPlan} {plan : Plan}

theorem State.bay_of_set {t : State} {x : Bay} (h : t.bays = s.bays.set b.val x) (y : BayNo) :
    t.bay y = if y = b then x else s.bay y := by
  simp only [State.bay, h, Vector.getElem_set, Fin.ext_iff, eq_comm]

/-- A bay changed but for its lamp leaves every lamp as it was. -/
theorem State.aspect_of_set {t : State} {x : Bay} (h : t.bays = s.bays.set b.val x) (lamp : x.aspect = (s.bay b).aspect)
    (y : BayNo) : (t.bay y).aspect = (s.bay y).aspect := by
  rw [State.bay_of_set h]
  split
  · next e => rw [e, lamp]
  · rfl

/-- A request whose event changes no lamp is answered on the state the event leaves. -/
theorem State.taken_of_aspect {c : Instr} {e : State × Answer} (h : ∀ x, (e.1.bay x).aspect = (s.bay x).aspect) :
    s.taken c e = .next (e.1.answered c e.2.status e.2.body) := by
  rw [State.taken, aspectOrders_same _ _ fun x _ => h x]

/-! ### The bay of a released record (R66) -/

/-- A bay in service that a lawful ENGAGED or OVERSTAY state keeps its lamp when it becomes BLOCKED. -/
theorem Bay.enter_blocked_of_parked {x : Bay} (lawful : x.Lawful) (st : x.state = .engaged ∨ x.state = .overstay) :
    x.enter .blocked = { x with state := .blocked } := by
  obtain ⟨aspect, reason⟩ := lawful
  have lamp : x.aspect = .inUse := by rcases st with st | st <;> simpa [st, BayState.aspect] using aspect
  have unreasoned : x.reason = none :=
    Option.not_isSome_iff_eq_none.1 (by rw [reason]; rcases st with st | st <;> rw [st] <;> decide)
  obtain ⟨⟩ := x
  simp_all [Bay.enter, BayState.aspect]

theorem State.settleReleased_inService (h : (s.bay b).state.inService = true) :
    s.settleReleased b = ((s.enter b .blocked).dropDeadline (.bay b)).raise .bayAlert := by
  rw [State.settleReleased, if_pos h]

theorem State.settleReleased_out (h : (s.bay b).state = .outOfService) : s.settleReleased b = s := by
  simp [State.settleReleased, h, BayState.inService]

/-- The release of a record at whose bay no session runs. -/
theorem State.releaseRecord_idle (hb : r.bay = some b) (idle : s.charging b = false) :
    takeRun (s.releaseRecord i r) = (s.retire i .released).settleReleased b := by
  simp only [State.releaseRecord, hb, State.endSession_idle idle, takeRun, idle, Bool.false_eq_true, if_false]

theorem State.releaseRecord_charging (hb : r.bay = some b) (runs : s.charging b = true) :
    takeRun (s.releaseRecord i r) =
      (((s.endSession b true false).retire i .released).settleReleased b).allocationRun := by
  simp only [State.releaseRecord, hb, takeRun, runs, if_true]

/-! ### Marks cleared (R56, R57) -/

/-- `s` with the mark of slot `i` clear. -/
def State.unmark (s : State) (i : SlotNo) : State := s.modSlot i fun x => { x with mark := false }

theorem State.clearMarks_eq (s : State) (l : List SlotNo) : s.clearMarks l = (l.foldl State.unmark s).evaluateChanges := rfl

/-- Marks cleared change the slots alone. -/
theorem State.foldl_unmark_eq (l : List SlotNo) (s : State) :
    l.foldl State.unmark s = { s with slots := (l.foldl State.unmark s).slots } := by
  induction l generalizing s with
  | nil => rfl
  | cons i l ih => rw [List.foldl_cons, ih]; rfl

theorem State.slot_foldl_unmark (l : List SlotNo) (s : State) (i : SlotNo) :
    (l.foldl State.unmark s).slot i = if i ∈ l then { s.slot i with mark := false } else s.slot i := by
  induction l generalizing s with
  | nil => simp
  | cons j l ih =>
    rw [List.foldl_cons, ih]
    by_cases h : i = j
    · subst h
      simp [State.unmark]
    · simp [State.unmark, State.slot_modSlot_ne _ _ _ _ h, h]

theorem State.markedCount_unmark (h : (s.slot i).mark = true) : (s.unmark i).markedCount + 1 = s.markedCount := by
  have marked : s.slots[i.val].mark = true := h
  have some_marked : 0 < List.countP (·.mark) s.slots.toList :=
    List.countP_pos_iff.2 ⟨_, List.getElem_mem (n := i.val) (by simp), by simpa using marked⟩
  unfold State.markedCount State.unmark State.modSlot
  simp only [Vector.toList_set]
  rw [List.countP_set (by simp)]
  simp only [Vector.getElem_toList, marked, if_true, Bool.false_eq_true, if_false]
  omega

/-- Each mark cleared is one less. -/
theorem State.markedCount_foldl_unmark (l : List SlotNo) (s : State) (distinct : l.Nodup) (marked : ∀ i ∈ l, (s.slot i).mark = true) :
    (l.foldl State.unmark s).markedCount + l.length = s.markedCount := by
  induction l generalizing s with
  | nil => rfl
  | cons i l ih =>
    obtain ⟨fresh, distinct⟩ := List.nodup_cons.1 distinct
    have rest : ∀ j ∈ l, ((s.unmark i).slot j).mark = true := fun j hj => by
      have apart : j ≠ i := fun e => fresh (e ▸ hj)
      rw [State.unmark, State.slot_modSlot_ne _ _ _ _ apart]
      exact marked j (List.mem_cons_of_mem _ hj)
    have step := State.markedCount_unmark (marked i List.mem_cons_self)
    have := ih (s.unmark i) distinct rest
    rw [List.foldl_cons, List.length_cons]
    omega

theorem flagByte_true : flagByte true = 1 := rfl

theorem flagByte_false : flagByte false = 0 := rfl

theorem le_two_none : le 2 0xFFFF = [0xFF, 0xFF] := rfl

/-- An entry of LIST CHANGES, written out (R57). -/
theorem State.changeEntry_eq (s : State) (i : SlotNo) :
    s.changeEntry i = match s.record i with
      | some r => le 2 (i.val + 1024 * ((s.slot i).generation.val % 64)) ++ [0] ++ le 1 r.state.code ++
          (match r.bay with | some b => le 2 b.val | none => [0xFF, 0xFF])
      | none => le 2 (i.val + 1024 * (((s.slot i).generation.val + 63) % 64)) ++ [1] ++
          (match (s.slot i).lastOutcome with | some o => le 1 o.code | none => [0]) ++ [0xFF, 0xFF] := by
  have live : (s.slot i).generation.val % 64 = (s.slot i).generation.val := Nat.mod_eq_of_lt (s.slot i).generation.isLt
  unfold State.changeEntry
  rcases s.record i with _ | r
  · rcases (s.slot i).lastOutcome with _ | o <;> rfl
  · simp only [live]
    rcases r.bay with _ | b <;> rfl

/-! ### The resolution of a ticket written as slot and generation (R49) -/

theorem toNat_ticket (i : SlotNo) (g : Fin 64) : (BitVec.ofNat 16 (i.val + 1024 * g.val)).toNat = i.val + 1024 * g.val := by
  rw [BitVec.toNat_ofNat]
  omega

theorem State.resolve_ticket (s : State) (i : SlotNo) (g : Fin 64) :
    s.resolve (BitVec.ofNat 16 (i.val + 1024 * g.val)) =
      match s.record i, (s.slot i).lastOutcome with
      | some r, _ => if g = (s.slot i).generation then .live i r else .stale
      | none, some o => if g = priorGeneration (s.slot i).generation then .retired o else .stale
      | none, none => .stale := by
  unfold State.resolve
  rw [ticketSlot_eq (toNat_ticket i g), ticketGeneration_eq (toNat_ticket i g)]
  rfl

theorem eq_priorGeneration_iff (g h : Fin 64) : g = priorGeneration h ↔ g.val = (h.val + 63) % 64 := Fin.ext_iff

/-! ### The fields of the reservation record (12.4) -/

theorem flagByte_eq_le (x : Bool) : [flagByte x] = le 1 (if x then 1 else 0) := by cases x <;> rfl

theorem bayField_eq_le (x : Option BayNo) : bayField x = le 2 ((x.map (·.val)).getD 0xFFFF) := rfl

theorem bitIf_le (n : Nat) (x : Bool) : bitIf n x ≤ 2 ^ n := by cases x <;> simp [bitIf]

theorem ResState.code_lt (x : ResState) : x.code < 256 := by cases x <;> decide

theorem VehicleClass.code_lt (x : VehicleClass) : x.code < 256 := by cases x <;> decide

theorem Priority.code_lt (x : Priority) : x.code < 256 := by cases x <;> decide

theorem DeadlineKind.code_lt (x : DeadlineKind) : x.code < 256 := by cases x <;> decide

/-- The place of a record that stands in the HIGH list. -/
theorem State.listPlace_high {front back : List SlotNo} (stands : s.highList = front ++ i :: back) (first : i ∉ front) :
    s.listPlace i = (1, front.length + 1) := by
  simp [State.listPlace, stands, List.idxOf_append, first]

theorem State.listPlace_normal {front back : List SlotNo} (high : i ∉ s.highList) (stands : s.normalList = front ++ i :: back)
    (first : i ∉ front) : s.listPlace i = (2, front.length + 1) := by
  simp [State.listPlace, high, stands, List.idxOf_append, first]

theorem State.listPlace_none (high : i ∉ s.highList) (normal : i ∉ s.normalList) : s.listPlace i = (0, 0) := by
  simp [State.listPlace, high, normal]

/-- The reservation record as its fields, first behind the other (12.4). -/
theorem State.reservationRecord_eq (s : State) (i : SlotNo) (r : Reservation) : s.reservationRecord i r =
    le 2 (i.val + 1024 * (s.slot i).generation.val) ++ (le 1 r.state.code ++ (le 5 r.credential.toNat ++ (le 1 r.cls.code ++
    (le 1 r.priority.code ++ (le 1 (if r.large then 1 else 0) ++ (le 1 r.zoneMask.toNat ++ (le 2 r.hold ++ (le 2 r.wait ++
    (le 4 r.stay ++ (le 2 (r.cap.getD 0) ++ (le 2 ((r.bay.map (·.val)).getD 0xFFFF) ++ (le 1 (r.allotment.getD 0xFF) ++
    (le 6 r.seq ++ (le 1 (bitIf 0 r.sessionDone + bitIf 1 r.stayExhausted + bitIf 2 (s.slot i).mark +
      bitIf 3 r.arrivedAt.isSome + bitIf 4 r.session.isSome) ++
    (le 4 (r.arrivedAt.getD 0) ++ (le 4 (r.session.getD 0) ++ (le 1 r.migrations ++
    (le 1 (((s.deadlineOf (.slot i)).map (·.kind.code)).getD 0) ++ (le 4 (((s.deadlineOf (.slot i)).map (·.due)).getD 0) ++
    (le 1 (s.listPlace i).1 ++ le 2 (s.listPlace i).2)))))))))))))))))))) := by
  unfold State.reservationRecord
  simp only [State.ticket, ticketOf, valueOr0, bayField_eq_le, flagByte_eq_le, List.append_assoc]

end Sys2Proof.Machine

open Sys2Proof Sys2Proof.Machine

/-- Settles O16: a retirement, its bay BLOCKED in service, or kept out of service; a session ends first. -/
theorem releaseRetiresTheRecord : Obligations.ReleaseRetiresTheRecord := by
  intro t s i r b p taken live hb bound hp lawful u kept bay
  obtain ⟨-, hr, -⟩ := State.resolve_live live
  have retired : s.retire i .released = { u with bays := s.bays.set b.val bay, deadlines := kept, notices := s.notices.evaluate u.markedCount } :=
    State.retire_planned hr hb hp .released
  have left : (s.retire i .released).bay b = bay := by rw [State.bay_retire hr, if_pos hb]
  have idle (st : r.state = .engaged ∨ r.state = .overstay) : s.charging b = false :=
    State.charging_eq_false bound hr (by rcases st with st | st <;> rw [st] <;> decide)
  refine ⟨fun st => ?_, fun st out => ?_, fun st => ?_⟩
  · have stopped : r.state = .engaged ∨ r.state = .overstay := st.imp And.left And.left
    have parked : (s.bay b).state = .engaged ∨ (s.bay b).state = .overstay := st.imp And.right And.right
    have inService : ((s.retire i .released).bay b).state.inService = true := by
      rw [left]
      rcases parked with h | h <;> simp [bay, h, BayState.inService]
    have blocked : bay.enter .blocked = { bay with state := .blocked } := Bay.enter_blocked_of_parked lawful parked
    have event : takeRun (s.releaseRecord i r) = { u with
        bays := s.bays.set b.val { bay with state := .blocked }
        deadlines := kept.filter fun d => d.owner != .bay b
        notices := (s.notices.evaluate u.markedCount).raise .bayAlert } := by
      rw [State.releaseRecord_idle hb (idle stopped), State.settleReleased_inService inService, retired]
      apply State.ext <;> simp [State.enter, State.modBay, blocked, State.dropDeadline, State.raise]
    rw [exec_release t taken, State.release_live live (by tauto), event]
    exact State.taken_of_aspect (State.aspect_of_set (b := b) rfl rfl)
  · have event : takeRun (s.releaseRecord i r) = s.retire i .released := by
      rw [State.releaseRecord_idle hb (idle st), State.settleReleased_out (by rw [left]; exact out)]
    rw [exec_release t taken, State.release_live live (by tauto), event, State.taken,
      aspectOrders_same _ _ fun x _ => State.aspect_retire hr _ x, retired]
  · rw [exec_release t taken, State.release_live live (by tauto),
      State.releaseRecord_charging hb (State.charging_eq_true bound hr st)]
    rfl

/-- Settles O19: the listed slots are marked and distinct, so that each takes one from the marked count. -/
theorem listChangesReturnsTheLowestMarks : Obligations.ListChangesReturnsTheLowestMarks := by
  intro s taken
  have lists : s.listedSlots = ((List.finRange 1024).filter fun i => (s.slot i).mark).take 32 := by
    unfold State.listedSlots allSlots Config.maxListed
    rfl
  have distinct : s.listedSlots.Nodup :=
    (nodup_allSlots.filter fun i => (s.slot i).mark).sublist (List.take_sublist _ _)
  have marked : ∀ i ∈ s.listedSlots, (s.slot i).mark = true := fun i hi =>
    (List.mem_filter.1 (List.mem_of_mem_take hi)).2
  refine ⟨s.clearMarks s.listedSlots, ?_⟩
  intro listed ticket entry
  have entries : s.changeEntry = entry := funext s.changeEntry_eq
  have notices : (s.listedSlots.foldl State.unmark s).notices = s.notices := by rw [State.foldl_unmark_eq]
  refine ⟨?_, ?_, ?_, ?_, ?_⟩
  · rw [exec_listChanges taken]
    simp only [State.listChanges, lists, entries]
    rfl
  · intro i
    rw [State.clearMarks_eq, show listed = s.listedSlots from lists.symm]
    exact State.slot_foldl_unmark _ s i
  · rw [State.clearMarks_eq, show listed = s.listedSlots from lists.symm]
    exact State.markedCount_foldl_unmark _ s distinct marked
  · rw [State.clearMarks_eq, State.evaluateChanges, notices]
    rfl
  · rw [State.clearMarks_eq, State.foldl_unmark_eq]
    rfl

/-- Settles O17: the ticket's slot and generation decide its resolution; the record's bytes stand field behind field. -/
theorem queryReservationResolvesTheTicket : Obligations.QueryReservationResolvesTheTicket := by
  refine ⟨fun i g s => ?_, fun i r s => ?_, rfl, rfl, rfl, rfl, rfl⟩
  · intro t taken
    have resolves := s.resolve_ticket i g
    refine ⟨fun r hr hg => ?_, fun o hr ho hg => ?_, ?_⟩
    · have live : s.resolve t = .live i r := resolves.trans (by simp only [hr, hg, if_true])
      rw [exec_queryReservation t taken]
      simp only [State.queryReservation, live]
    · have retired : s.resolve t = .retired o :=
        resolves.trans (by simp only [hr, ho, eq_priorGeneration_iff, hg, if_true])
      rw [exec_queryReservation t taken]
      simp only [State.queryReservation, retired]
    · intro unresolved
      have stale : s.resolve t = .stale := by
        rcases unresolved with ⟨⟨r, hr⟩, hg⟩ | ⟨hr, ho⟩
        · exact resolves.trans (by simp only [hr, hg, if_false])
        · cases hlast : (s.slot i).lastOutcome with
          | none => exact resolves.trans (by simp only [hr, hlast])
          | some o =>
            have hg : ¬g.val = ((s.slot i).generation.val + 63) % 64 := by simpa [hlast] using ho
            exact resolves.trans (by simp only [hr, hlast, eq_priorGeneration_iff, hg, if_false])
      rw [exec_queryReservation t taken]
      simp only [State.queryReservation, stale]
  · intro x or0 bit d
    have record : x = _ := s.reservationRecord_eq i r
    have or0_eq (v : Option Nat) : or0 v = v.getD 0 := by cases v <;> rfl
    refine ⟨?length, ?ticket, ?state, ?credential, ?cls, ?priority, ?large, ?zoneMask, ?hold, ?wait, ?stay, ?cap, ?bay, ?allotment,
      ?seq, ?flags, ?arrivedAt, ?session, ?migrations, ?kind, ?due, ?high, ?normal, ?unlisted⟩
    case ticket =>
      have : i.val + 1024 * (s.slot i).generation.val < 65536 := by omega
      simpa [record, fieldAt_head] using this
    case large => cases h : r.large <;> simp [record, fieldAt_next, fieldAt_head, h, bit]
    case bay =>
      cases h : r.bay with
      | none => simp [record, fieldAt_next, fieldAt_head, h]
      | some b =>
        have : b.val % 65536 = b.val := Nat.mod_eq_of_lt (by omega)
        simp [record, fieldAt_next, fieldAt_head, h, this]
    case allotment => cases h : r.allotment <;> simp [record, fieldAt_next, fieldAt_head, h]
    case flags =>
      have := bitIf_le 0 r.sessionDone
      have := bitIf_le 1 r.stayExhausted
      have := bitIf_le 2 (s.slot i).mark
      have := bitIf_le 3 r.arrivedAt.isSome
      have := bitIf_le 4 r.session.isSome
      have small : bitIf 0 r.sessionDone + bitIf 1 r.stayExhausted + bitIf 2 (s.slot i).mark + bitIf 3 r.arrivedAt.isSome +
          bitIf 4 r.session.isSome < 256 := by omega
      simp [record, fieldAt_next, fieldAt_head, Nat.mod_eq_of_lt small]
      rfl
    case kind =>
      have code : ((s.deadlineOf (.slot i)).map (·.kind.code)).getD 0 < 256 := by
        rcases s.deadlineOf (.slot i) with _ | e
        · decide
        · exact e.kind.code_lt
      simp [record, fieldAt_next, fieldAt_head, or0_eq, d, Nat.mod_eq_of_lt code]
    case high =>
      intro front back stands first
      simp [record, fieldAt_next, fieldAt_head, fieldAt_whole, State.listPlace_high stands first]
    case normal =>
      intro front back high stands first
      simp [record, fieldAt_next, fieldAt_head, fieldAt_whole, State.listPlace_normal high stands first]
    case unlisted =>
      intro high normal
      simp [record, fieldAt_next, fieldAt_head, fieldAt_whole, State.listPlace_none high normal]
    all_goals simp [record, fieldAt_next, fieldAt_head, or0_eq, d, ResState.code_lt, VehicleClass.code_lt, Priority.code_lt,
      r.credential.isLt, r.zoneMask.isLt]

end

section
/-! SUPPORT. The searches of the Arrival Matcher (R75, R76, R79, R80): an entry that matches, the longest of those met so far, the
exclusive entries of a bay, and the masks one by one. -/

-- One proof after another: side by side, the package as one text takes a thread and its stack for each.
set_option Elab.async false

namespace Sys2Proof.Machine

variable {s : State} {b : BayNo} {p : BayPlan} {plan : Plan}

/-! ### The longest match (R75) -/

/-- The leading bits of two credentials, read from the most significant end. -/
theorem ushiftRight_eq_iff (x y : Credential) (n : Nat) :
    x >>> (40 - n) = y >>> (40 - n) ↔ ∀ k, k < n → x.getMsbD k = y.getMsbD k := by
  constructor
  · intro same k hk
    by_cases inside : k < 40
    · have := congrArg (·.getLsbD (39 - k - (40 - n))) same
      have position : 40 - n + (39 - k - (40 - n)) = 39 - k := by omega
      simpa [BitVec.getMsbD, inside, position] using this
    · simp [BitVec.getMsbD, inside]
  · intro same
    apply BitVec.eq_of_getLsbD_eq
    intro j _
    simp only [BitVec.getLsbD_ushiftRight]
    by_cases inside : 40 - n + j < 40
    · have := same (39 - (40 - n + j)) (by omega)
      have position : 40 - 1 - (39 - (40 - n + j)) = 40 - n + j := by omega
      have below : 39 - (40 - n + j) < 40 := by omega
      simpa [BitVec.getMsbD, below, position] using this
    · rw [BitVec.getLsbD_of_ge _ _ (by omega), BitVec.getLsbD_of_ge _ _ (by omega)]

theorem Allotment.matchesCredential_iff (a : Allotment) (c : Credential) :
    a.matchesCredential c = true ↔ ∀ k, k < a.length → c.getMsbD k = a.leading.getMsbD k := by
  rw [Allotment.matchesCredential, beq_iff_eq, ushiftRight_eq_iff]

/-- What the search keeps when it meets entry number `n`. -/
def longerMatch (c : Credential) (best : Option (Nat × Allotment)) (x : Allotment × Nat) : Option (Nat × Allotment) :=
  if x.1.matchesCredential c then
    match best with
    | some (_, b) => if b.length < x.1.length then some (x.2, x.1) else best
    | none => some (x.2, x.1)
  else best

theorem longestPrefix_eq (entries : List Allotment) (c : Credential) :
    longestPrefix entries c = entries.zipIdx.foldl (longerMatch c) none := rfl

theorem longestPrefix_concat (entries : List Allotment) (a : Allotment) (c : Credential) :
    longestPrefix (entries ++ [a]) c = longerMatch c (longestPrefix entries c) (a, entries.length) := by
  simp [longestPrefix_eq, List.zipIdx_append]

/-- `best` is the first of the longest matches of `entries`. -/
def IsLongest (entries : List Allotment) (c : Credential) : Option (Nat × Allotment) → Prop
  | none => ∀ a ∈ entries, a.matchesCredential c = false
  | some (n, a) => entries[n]? = some a ∧ a.matchesCredential c = true ∧
      ∀ m b, entries[m]? = some b → b.matchesCredential c = true → b.length < a.length ∨ b.length = a.length ∧ n ≤ m

/-- An entry of a list with one more is one of the list, or the last. -/
theorem getElem?_concat_eq_some {α : Type} {xs : List α} {x y : α} {m : Nat} (h : (xs ++ [x])[m]? = some y) :
    xs[m]? = some y ∨ m = xs.length ∧ y = x := by
  rw [List.getElem?_append] at h
  split at h
  · exact .inl h
  · next beyond =>
    rw [List.getElem?_singleton] at h
    split at h
    · next last => exact .inr ⟨by omega, (Option.some.inj h).symm⟩
    · cases h

theorem IsLongest.concat {entries : List Allotment} {c : Credential} {best : Option (Nat × Allotment)}
    (h : IsLongest entries c best) (a : Allotment) :
    IsLongest (entries ++ [a]) c (longerMatch c best (a, entries.length)) := by
  have last : (entries ++ [a])[entries.length]? = some a := by simp
  unfold longerMatch
  by_cases fits : a.matchesCredential c = true
  · rw [if_pos fits]
    rcases best with _ | ⟨n, b⟩
    · refine ⟨last, fits, fun m x hx matched => ?_⟩
      rcases getElem?_concat_eq_some hx with hx | ⟨rfl, rfl⟩
      · exact absurd matched (by simp [h x (List.mem_of_getElem? hx)])
      · exact .inr ⟨rfl, le_rfl⟩
    · obtain ⟨hn, hb, longest⟩ := h
      have below : n < entries.length := (List.getElem?_eq_some_iff.1 hn).1
      dsimp only
      split
      · next longer =>
        refine ⟨last, fits, fun m x hx matched => ?_⟩
        rcases getElem?_concat_eq_some hx with hx | ⟨rfl, rfl⟩
        · have := longest m x hx matched
          omega
        · exact .inr ⟨rfl, le_rfl⟩
      · next shorter =>
        refine ⟨by rw [List.getElem?_append_left below, hn], hb, fun m x hx matched => ?_⟩
        rcases getElem?_concat_eq_some hx with hx | ⟨rfl, rfl⟩
        · exact longest m x hx matched
        · omega
  · rw [if_neg fits]
    have never : a.matchesCredential c = false := by simpa using fits
    rcases best with _ | ⟨n, b⟩
    · intro x hx
      rcases List.mem_append.1 hx with hx | hx
      · exact h x hx
      · rwa [List.mem_singleton.1 hx]
    · obtain ⟨hn, hb, longest⟩ := h
      have below : n < entries.length := (List.getElem?_eq_some_iff.1 hn).1
      refine ⟨by rw [List.getElem?_append_left below, hn], hb, fun m x hx matched => ?_⟩
      rcases getElem?_concat_eq_some hx with hx | ⟨rfl, rfl⟩
      · exact longest m x hx matched
      · exact absurd matched fits

theorem isLongest_longestPrefix (entries : List Allotment) (c : Credential) :
    IsLongest entries c (longestPrefix entries c) := by
  induction entries using List.reverseRecOn with
  | nil => simp [longestPrefix_eq, IsLongest]
  | append_singleton entries a ih => rw [longestPrefix_concat]; exact ih.concat a

/-! ### Exclusive entries (R76) -/

theorem Allotment.covers_iff (a : Allotment) (b : BayNo) :
    a.covers b = true ↔ a.firstBay ≤ b.val ∧ b.val < a.firstBay + a.count := by
  simp [Allotment.covers]

theorem State.allotments_plan (h : s.plan = some plan) : s.allotments = plan.allotments := by simp [State.allotments, h]

theorem State.mem_exclusiveAt (h : s.plan = some plan) (b : BayNo) (n : Nat) :
    n ∈ s.exclusiveAt b ↔ ∃ a : Allotment, plan.allotments[n]? = some a ∧ a.exclusive = true ∧ a.covers b = true := by
  simp only [State.exclusiveAt, State.allotments_plan h, List.mem_filterMap, Prod.exists, List.mem_zipIdx_iff_getElem?]
  constructor
  · rintro ⟨a, m, ha, hm⟩
    split at hm
    · next both =>
      obtain rfl := Option.some.inj hm
      exact ⟨a, ha, by simpa using both⟩
    · cases hm
  · rintro ⟨a, ha, exclusive, covers⟩
    exact ⟨a, n, ha, by simp [exclusive, covers]⟩

theorem State.exclusiveAt_eq_nil_iff (h : s.plan = some plan) (b : BayNo) :
    (s.exclusiveAt b).isEmpty = true ↔ ∀ n : Nat, ¬∃ a : Allotment, plan.allotments[n]? = some a ∧ a.exclusive = true ∧ a.covers b = true := by
  rw [List.isEmpty_iff, List.eq_nil_iff_forall_not_mem]
  exact forall_congr' fun n => not_congr (State.mem_exclusiveAt h b n)

theorem State.admits_iff (h : s.plan = some plan) (b : BayNo) (entry : Option Nat) :
    s.admits b entry = true ↔
      (∀ n : Nat, ¬∃ a : Allotment, plan.allotments[n]? = some a ∧ a.exclusive = true ∧ a.covers b = true) ∨
        ∃ n : Nat, entry = some n ∧ ∃ a : Allotment, plan.allotments[n]? = some a ∧ a.exclusive = true ∧ a.covers b = true := by
  unfold State.admits
  rw [Bool.or_eq_true, State.exclusiveAt_eq_nil_iff h]
  refine or_congr Iff.rfl ?_
  cases entry with
  | none => simp
  | some n => simp only [List.contains_iff_mem, State.mem_exclusiveAt h, Option.some.injEq, exists_eq_left']

/-! ### The masks (R79, R80) -/

theorem State.zoneOpen_iff (h : s.plan = some plan) (p : BayPlan) :
    s.zoneOpen p = true ↔ plan.zones[p.zone.val].closed = false := by
  simp [State.zoneOpen, State.zone, h]

theorem kindFits_iff (c : Claim) (k : Kind) :
    kindFits c k = true ↔ match k with
      | .accessible => c.cls = .accessible ∧ c.large = false
      | .standard => c.large = false
      | .large => True := by
  cases k <;> simp [kindFits]

theorem State.feederLimit_plan (h : s.plan = some plan) (f : FeederNo) :
    s.feederLimit f = match plan.feeders.find? (·.number == f) with | some x => x.limit | none => 0 := by
  simp only [State.feederLimit, State.feederPlan, h, Option.bind_some]
  cases plan.feeders.find? (·.number == f) <;> rfl

theorem State.masks_planned (hp : (s.bay b).place = some p) (c : Claim) :
    s.masks c b = true ↔ s.zoneOpen p = true ∧ kindFits c p.kind = true ∧ s.admits b c.allotment = true ∧
      s.pledgeFor c p.feeder + p.pmin ≤ s.feederLimit p.feeder := by
  simp only [State.masks, hp, State.pledgeTest, Bool.and_eq_true, decide_eq_true_eq, and_assoc]

theorem State.candidate_planned (hplan : s.plan = some plan) (hp : (s.bay b).place = some p) (c : Claim) :
    s.candidate c b = true ↔ match c.allotment with
      | some n => ∃ a, plan.allotments[n]? = some a ∧ a.covers b = true
      | none => c.zoneMask.getLsbD p.zone.val = true := by
  simp only [State.candidate, hp]
  cases c.allotment with
  | none => rfl
  | some n =>
    rw [State.allotments_plan hplan]
    cases hn : plan.allotments[n]? <;> simp [hn]

end Sys2Proof.Machine

open Sys2Proof Sys2Proof.Machine

/-- Settles O21: the search holds, at every point, the first of the longest matches met. -/
theorem theLongestMatchingPrefixDecides : Obligations.TheLongestMatchingPrefixDecides := by
  intro entries c matches_
  have fits (a : Allotment) : a.matchesCredential c = true ↔ matches_ a := a.matchesCredential_iff c
  have longest := isLongest_longestPrefix entries c
  refine ⟨⟨fun nothing a ha => ?_, fun nothing => ?_⟩, fun n a found => ?_⟩
  · rw [nothing] at longest
    rw [← fits, longest a ha]
    exact Bool.false_ne_true
  · rcases h : longestPrefix entries c with _ | ⟨n, a⟩
    · rfl
    · rw [h] at longest
      obtain ⟨hn, ha, -⟩ := longest
      exact absurd ((fits a).1 ha) (nothing a (List.mem_of_getElem? hn))
  · rw [found] at longest
    obtain ⟨hn, ha, first⟩ := longest
    exact ⟨hn, (fits a).1 ha, fun m b hm hb => first m b hm ((fits b).2 hb)⟩

/-- Settles O22: each test is the conjunction of its masks, each mask what the plan says. -/
theorem theTestsAreTheMasks : Obligations.TheTestsAreTheMasks := by
  intro s c b p plan hplan hp covers exclusive member kind admitted pledge limit masks
  have covers_iff (a : Allotment) : a.covers b = true ↔ covers a := a.covers_iff b
  have masks_iff : s.masks c b = true ↔ masks := by
    rw [State.masks_planned hp, State.zoneOpen_iff hplan, kindFits_iff, State.admits_iff hplan, State.feederLimit_plan hplan,
      State.pledgeFor_eq_sub]
    simp only [covers_iff]
    rfl
  have member_iff : s.candidate c b = true ↔ member := by
    rw [State.candidate_planned hplan hp]
    simp only [covers_iff]
    rfl
  refine ⟨?_, ?_, ?_⟩
  · rw [State.placementTest, Bool.and_eq_true, Bool.and_eq_true, masks_iff, member_iff, beq_iff_eq, and_assoc]
  · rw [State.pinTest, Bool.and_eq_true, masks_iff, beq_iff_eq]
  · rw [State.presentationTest, Bool.and_eq_true, masks_iff, Bay.presentable, Bool.or_eq_true, Bool.and_eq_true, beq_iff_eq,
      beq_iff_eq, Bool.not_eq_true']

end

section
/-! SUPPORT. Grant orders, gates and settlement (R130 to R135), and the start and end of a session (R33 to R35), each operation as
the state it leaves. -/

-- One proof after another: side by side, the package as one text takes a thread and its stack for each.
set_option Elab.async false

namespace Sys2Proof.Machine

variable {s : State} {i : SlotNo} {b : BayNo} {r : Reservation} {p : BayPlan} {plan : Plan}

/-! ### Folds -/

theorem finRange_bays : List.finRange 512 = allBays := by
  unfold allBays
  rfl

theorem finRange_feeders : List.finRange 16 = allFeeders := by
  unfold allFeeders
  rfl

/-- A fold over the elements a test picks, where no step changes the test, is the fold over the picked ones. -/
theorem foldl_if_eq_foldl_filter {σ α : Type} (I : σ → Prop) (pick : σ → α → Bool) (q : α → Bool) (f : σ → α → σ)
    (reads : ∀ t a, I t → pick t a = q a) (keeps : ∀ t a, I t → I (f t a)) (l : List α) {s : σ} (hs : I s) :
    l.foldl (fun t a => if pick t a then f t a else t) s = (l.filter q).foldl f s := by
  induction l generalizing s with
  | nil => rfl
  | cons a l ih =>
    rw [List.foldl_cons, reads s a hs, List.filter_cons]
    split
    · exact ih (keeps s a hs)
    · exact ih hs

theorem foldl_modGrant_eq (f : Grants → Grants) (l : List BayNo) (s : State) :
    l.foldl (fun t b => t.modGrant b f) s = { s with grants := (l.foldl (fun t b => t.modGrant b f) s).grants } := by
  induction l generalizing s with
  | nil => rfl
  | cons b l ih => rw [List.foldl_cons, ih]; rfl

theorem grant_foldl_modGrant (f : Grants → Grants) (l : List BayNo) (distinct : l.Nodup) (s : State) (x : BayNo) :
    (l.foldl (fun t b => t.modGrant b f) s).grant x = if x ∈ l then f (s.grant x) else s.grant x := by
  induction l generalizing s with
  | nil => simp
  | cons b l ih =>
    obtain ⟨fresh, distinct⟩ := List.nodup_cons.1 distinct
    rw [List.foldl_cons, ih distinct]
    by_cases h : x = b
    · subst h
      simp [fresh]
    · simp [h, State.grant_modGrant_ne _ _ _ _ h]

/-- Grants changed alike at every bay. -/
theorem foldl_modGrant_allBays (f : Grants → Grants) (s : State) :
    allBays.foldl (fun t b => t.modGrant b f) s = { s with grants := s.grants.map f } := by
  rw [foldl_modGrant_eq]
  congr 1
  apply Vector.ext
  intro k hk
  have := grant_foldl_modGrant f allBays nodup_allBays s ⟨k, hk⟩
  rw [if_pos (mem_allBays _)] at this
  simpa [State.grant] using this

/-! ### Orders (R130, R135) -/

theorem Grants.committed_eq (g : Grants) :
    g.committed = match g.outstanding with | some o => max g.acknowledged o.value | none => g.acknowledged := by
  cases h : g.outstanding <;> simp [Grants.committed, h]

theorem State.handGrant_eq (s : State) (b : BayNo) (v : Nat) (flag : OrderFlag) :
    s.handGrant b v flag = { s with
      grants := s.grants.set b.val
        { s.grant b with
          outstanding := some ⟨v, flag, decide (v < (s.grant b).committed)⟩
          startQueued := (s.grant b).startQueued || decide (flag = .start) }
      lanes := s.lanes.set (laneOf b).val
        { s.lane (laneOf b) with
          queue := queueGrant b ⟨v, flag, decide (v < (s.grant b).committed)⟩ (s.lane (laneOf b)).queue } } := rfl

theorem State.makeStop_idle (h : (s.grant b).outstanding = none) : s.makeStop b = s.handGrant b 0 .stop := by
  simp [State.makeStop, h]

theorem State.makeStop_busy (h : (s.grant b).outstanding ≠ none) :
    s.makeStop b = s.modGrant b fun g => { g with pending := some ⟨0, .stop⟩ } := by
  unfold State.makeStop
  cases ho : (s.grant b).outstanding with
  | none => exact absurd ho h
  | some o => rfl

@[simp] theorem State.bays_makeStop (b : BayNo) : (s.makeStop b).bays = s.bays := by
  unfold State.makeStop
  split <;> simp

@[simp] theorem State.slots_makeStop (b : BayNo) : (s.makeStop b).slots = s.slots := by
  unfold State.makeStop
  split <;> simp

/-! ### Gates (R132) -/

theorem State.onFeeder_iff (f : FeederNo) (b : BayNo) :
    s.onFeeder f b = true ↔ ∃ p, (s.bay b).place = some p ∧ p.feeder = f := by
  simp [State.onFeeder, State.feederOf]

theorem State.holdsGate_eq_false_iff (b : BayNo) : s.holdsGate b = false ↔
    (s.bay b).state = .outOfService ∧ (s.bay b).reason = some .postFault ∨
      (∀ o, (s.grant b).outstanding = some o → o.decrease = false) ∧
        ∀ v, (s.grant b).pending = some v → (s.grant b).committed ≤ v.value := by
  cases ho : (s.grant b).outstanding <;> cases hp : (s.grant b).pending <;>
    simp [State.holdsGate, ho, hp, or_iff_not_imp_left]

theorem State.gateOpen_iff (f : FeederNo) : s.gateOpen f = true ↔
    ∀ b p, (s.bay b).place = some p → p.feeder = f → s.holdsGate b = false := by
  simp only [State.gateOpen, List.all_eq_true, mem_allBays, true_implies, Bool.not_eq_true', Bool.and_eq_false_iff]
  refine forall_congr' fun b => ⟨fun h p hp hf => ?_, fun h => ?_⟩
  · exact h.resolve_left fun off => by simp [State.onFeeder, State.feederOf, hp, hf] at off
  · by_cases on : s.onFeeder f b = true
    · obtain ⟨p, hp, hf⟩ := State.onFeeder_iff f b |>.1 on
      exact .inr (h p hp hf)
    · exact .inl (by simpa using on)

@[simp] theorem State.bays_releaseIncrease (b : BayNo) : (s.releaseIncrease b).bays = s.bays := by
  unfold State.releaseIncrease
  split
  · rfl
  · dsimp only
    split <;> simp

/-- A bay's feeder is read from the bays. -/
theorem State.onFeeder_congr {t : State} (h : t.bays = s.bays) (f : FeederNo) : t.onFeeder f = s.onFeeder f := by
  funext b
  simp only [State.onFeeder, State.feederOf, State.bay, h]

theorem State.releaseIncreases_eq (s : State) (f : FeederNo) :
    s.releaseIncreases f = (allBays.filter (s.onFeeder f)).foldl State.releaseIncrease s :=
  foldl_if_eq_foldl_filter (fun t : State => t.bays = s.bays) (fun t b => State.onFeeder t f b) (s.onFeeder f) _
    (fun _ _ h => by rw [State.onFeeder_congr h]) (fun _ _ h => by simpa using h) _ rfl

theorem State.testGateOf_planned (hp : (s.bay b).place = some p) : s.testGateOf b = s.testGate p.feeder := by
  simp [State.testGateOf, State.feederOf, hp]

theorem State.gateOpenOf_planned (hp : (s.bay b).place = some p) : s.gateOpenOf b = s.gateOpen p.feeder := by
  simp [State.gateOpenOf, State.feederOf, hp]

/-! ### Settlement (R131, R134) -/

/-- A held-back increase discarded. -/
def Grants.unheld (g : Grants) : Grants := { g with heldBack := none }

theorem Grants.unheld_of_none {g : Grants} (h : g.heldBack = none) : g.unheld = g := by
  obtain ⟨⟩ := g
  simp_all [Grants.unheld]

theorem State.discardIncreases_eq (s : State) : s.discardIncreases = { s with grants := s.grants.map Grants.unheld } := by
  have step (t : State) (b : BayNo) :
      (if (t.grant b).heldBack.isSome then t.modGrant b Grants.unheld else t) = t.modGrant b Grants.unheld := by
    split
    · rfl
    · next h =>
      have same : (t.grant b).unheld = t.grant b := Grants.unheld_of_none (by simpa using h)
      have same : Grants.unheld t.grants[b.val] = t.grants[b.val] := same
      simp [State.modGrant, same]
  rw [← foldl_modGrant_allBays]
  exact congrArg (allBays.foldl · s) (funext fun t => funext fun b => step t b)

@[simp] theorem State.bays_settleTarget (b : BayNo) : (s.settleTarget b).bays = s.bays := by
  unfold State.settleTarget
  dsimp only
  split
  · split <;> rfl
  · split
    · simp
    · split
      · split <;> simp
      · rfl

@[simp] theorem State.slots_settleTarget (b : BayNo) : (s.settleTarget b).slots = s.slots := by
  unfold State.settleTarget
  dsimp only
  split
  · split <;> rfl
  · split
    · simp
    · split
      · split <;> simp
      · rfl

/-- Whether a session runs is read from the bays and the slots. -/
theorem State.charging_congr {t : State} (bays : t.bays = s.bays) (slots : t.slots = s.slots) : t.charging = s.charging := by
  funext b
  simp only [State.charging, State.sessionAt, State.record, State.bay, State.slot, bays, slots]

theorem State.settleTargets_eq (s : State) :
    s.settleTargets = allFeeders.foldl State.testGate
      ((allBays.filter s.charging).foldl State.settleTarget { s with grants := s.grants.map Grants.unheld }) := by
  unfold State.settleTargets
  dsimp only
  rw [State.discardIncreases_eq]
  refine congrArg (allFeeders.foldl State.testGate ·) ?_
  exact foldl_if_eq_foldl_filter (fun t : State => t.bays = s.bays ∧ t.slots = s.slots) (fun t b => State.charging t b) s.charging _
    (fun _ _ h => by rw [State.charging_congr h.1 h.2]) (fun _ _ h => by simpa using h) _ ⟨rfl, rfl⟩

/-! ### Sessions (R33, R35, R135) -/

theorem State.charging_iff (b : BayNo) :
    s.charging b = true ↔ ∃ i q, (s.bay b).bound = some i ∧ s.record i = some q ∧ q.state = .charging := by
  rw [State.charging, Option.isSome_iff_exists]
  simp only [State.sessionAt_eq_some]
  exact exists_congr fun i => ⟨fun ⟨hb, q, hq⟩ => ⟨q, hb, hq⟩, fun ⟨q, hb, hq⟩ => ⟨hb, q, hq⟩⟩

theorem State.startSession_eq (hr : s.record i = some r) :
    s.startSession b i =
      let begun : State := { s with
        slots := s.slots.set i.val
          { s.slot i with record := some { r with state := .charging, session := some s.sessionSeq }, mark := true }
        bays := s.bays.set b.val { s.bay b with state := .charging, aspect := .inUse, reason := none, starved := false }
        grants := s.grants.set b.val { s.grant b with startQueued := false, startOrdinal := s.starts }
        sessionSeq := min (s.sessionSeq + 1) 0xFFFFFFFF
        starts := s.starts + 1
        deadlines := s.deadlines.filter fun d => d.owner != .bay b }
      ({ begun with notices := s.notices.evaluate begun.markedCount } : State).bump .sessionsStarted := by
  have hr' : s.slots[i.val].record = some r := hr
  unfold State.startSession
  refine congrArg (State.bump · .sessionsStarted) ?_
  apply State.ext <;>
    simp [State.setMark, State.evaluateChanges, State.modSlot, State.modRecord, State.modBay, State.modGrant, State.dropDeadline,
      satAdd, Config.max32, Bay.enter, BayState.aspect, State.slot, State.bay, State.grant, State.markedCount, hr']

/-- The end of a session but for its STOP order. -/
def State.sessionEnded (s : State) (b : BayNo) (i : SlotNo) (r : Reservation) (mark : Bool) : State :=
  let u : State := { s with
    slots := s.slots.set i.val
      { s.slot i with
        record := some { r with state := .engaged, session := none, sessionDone := true }, mark := (s.slot i).mark || mark }
    bays := s.bays.set b.val
      (if (s.bay b).state = .charging then
        { s.bay b with state := .engaged, aspect := .inUse, reason := none, starved := false }
       else { s.bay b with starved := false })
    grants := s.grants.set b.val
      { s.grant b with target := 0, heldBack := none, pending := none, startQueued := false } }
  if mark then { u with notices := s.notices.evaluate u.markedCount } else u

theorem State.endSession_eq (hb : (s.bay b).bound = some i) (hr : s.record i = some r) (st : r.state = .charging)
    (stop mark : Bool) :
    s.endSession b stop mark = if stop then (s.sessionEnded b i r mark).makeStop b else s.sessionEnded b i r mark := by
  have hr' : s.slots[i.val].record = some r := hr
  have at_ : s.sessionAt b = some i := State.sessionAt_eq_some.2 ⟨hb, r, hr, st⟩
  have ended : s.endSession b false mark = s.sessionEnded b i r mark := by
    unfold State.endSession State.sessionEnded
    rw [at_]
    dsimp only
    by_cases hc : (s.bay b).state = .charging <;> cases mark <;>
      simp only [if_true, if_false, Bool.false_eq_true, State.bay_modRecord, State.bay_setMark, hc] <;>
      apply State.ext <;>
      simp [State.setMark, State.evaluateChanges, State.modSlot, State.modRecord, State.modBay, State.modGrant, State.enter, Bay.enter,
        BayState.aspect, State.slot, State.bay, State.grant, State.markedCount, hr']
  cases stop with
  | false => exact ended
  | true =>
    rw [if_pos rfl, ← ended]
    simp only [State.endSession, at_, if_true, Bool.false_eq_true, if_false]

theorem PlugState.plugs_iff (x : PlugState) : x.plugs = true ↔ x = .plugged ∨ x = .charging := by
  cases x <;> simp [PlugState.plugs]

theorem State.graceTime_plan (h : s.plan = some plan) : s.graceTime = plan.site.graceTime := by simp [State.graceTime, h]

end Sys2Proof.Machine

open Sys2Proof Sys2Proof.Machine

/-- Settles O39: each operation on a bay's grants row by row, then the folds that settle every bay and test every gate. -/
theorem targetsAreSettledAndGatesRelease : Obligations.TargetsAreSettledAndGatesRelease := by
  intro s with_
  rw [finRange_bays, finRange_feeders]
  refine ⟨fun b v flag => ?_, fun b => ?_, fun b => ?_, fun f => ?_, fun b => ?_, fun f => ?_,
    fun b p hp => ⟨State.testGateOf_planned hp, State.gateOpenOf_planned hp⟩, s.settleTargets_eq⟩
  · intro g committed o l
    have : (s.grant b).committed = committed := Grants.committed_eq _
    rw [State.handGrant_eq, this]
  · split
    · next idle => exact State.makeStop_idle idle
    · next busy => exact State.makeStop_busy busy
  · intro g flag
    unfold State.settleTarget
    refine ⟨fun o ho same queued => ?_, fun o ho differs => ?_, fun idle below => ?_, fun idle same queued => ?_,
      fun idle same unqueued => ?_, fun idle above => ?_⟩
    · simp only [show (s.grant b).outstanding = some o from ho]
      exact if_pos ⟨same, queued⟩
    · simp only [show (s.grant b).outstanding = some o from ho]
      refine if_neg fun ⟨same, queued⟩ => ?_
      rcases differs with differs | unqueued
      · exact differs same
      · rw [unqueued] at queued
        cases queued
    · simp only [show (s.grant b).outstanding = none from idle]
      exact if_pos below
    · have level : ¬(s.grant b).target < (s.grant b).acknowledged := by rw [show (s.grant b).target = _ from same]; exact lt_irrefl _
      simp only [show (s.grant b).outstanding = none from idle, if_neg level]
      rw [if_pos same, if_pos queued]
    · have level : ¬(s.grant b).target < (s.grant b).acknowledged := by rw [show (s.grant b).target = _ from same]; exact lt_irrefl _
      simp only [show (s.grant b).outstanding = none from idle, if_neg level]
      rw [if_pos same, if_neg (by rw [unqueued]; simp), show (s.grant b).startQueued = false from unqueued]
      rfl
    · simp only [show (s.grant b).outstanding = none from idle]
      have above : (s.grant b).acknowledged < (s.grant b).target := above
      rw [if_neg above.not_gt, if_neg above.ne']
      rfl
  · rw [State.gateOpen_iff]
    simp only [State.holdsGate_eq_false_iff, Grants.committed_eq] <;> rfl
  · unfold State.releaseIncrease
    cases (s.grant b).heldBack with
    | none => rfl
    | some v => cases (s.grant b).outstanding <;> simp [with_, State.modGrant, State.grant]
  · rw [State.testGate, State.releaseIncreases_eq]

/-- Settles O48: a start and an end as states, and stages 4 and 5 by their conditions. -/
theorem sessionsStartAndEnd : Obligations.SessionsStartAndEnd := by
  refine ⟨fun s b i r hr => ⟨State.startSession_eq hr, fun hb st stop mark => State.endSession_eq hb hr st stop mark⟩,
    fun s b r plan hplan => ?_⟩
  intro x runs plugs withPlug withStop ended after
  have runs_iff : s.charging b = true ↔ runs := State.charging_iff b
  have idle_iff : s.charging b = false ↔ ¬runs := by rw [← Bool.not_eq_true, runs_iff]
  have plugs_iff (y : PlugState) : y.plugs = true ↔ plugs y := y.plugs_iff
  have grace : s.userEnds b = (after, true) := by
    have clock : ended.clock = s.clock := (State.sameOffLane_keepsLive s).endSession s b true true ⟨rfl, rfl, rfl, rfl⟩ |>.2.2.1
    simp only [after, ← clock, State.userEnds, State.graceTime_plan hplan]
    rfl
  refine ⟨fun idle stop mark => State.endSession_idle (idle_iff.2 idle) stop mark, fun became => ?_, fun runs stops fresh => ?_,
    fun quiet => ?_⟩
  · intro starts unplugs
    have starts_iff : ((s.bay b).state = .engaged ∧ s.charging b = false ∧ r.plug.plugs = true ∧
        ((s.bay b).plug = .unplugged ∨ became = true)) ↔ starts := by rw [idle_iff, plugs_iff]
    have unplugs_iff : (s.charging b = true ∧ r.plug = .unplugged ∧ (s.bay b).plug.plugs = true) ↔ unplugs := by
      rw [runs_iff, plugs_iff]
    unfold State.stage4
    dsimp only
    refine ⟨fun i q hs hb hr st => ?_, fun i q hs hb hr st => ?_, fun hu => ?_, fun hs hu => ?_⟩
    · have : s.tryStart b = (s.startSession b i, true) := by simp [State.tryStart, show (s.bay b).bound = some i from hb, hr, st]
      rw [if_pos (starts_iff.2 hs), this]
      rfl
    · have : s.tryStart b = (s.aspectOrder b true, false) := by simp [State.tryStart, show (s.bay b).bound = some i from hb, hr, st]
      rw [if_pos (starts_iff.2 hs), this]
      rfl
    · have hs : ¬starts := fun ⟨_, idle, _⟩ => idle hu.1
      rw [if_neg fun h => hs (starts_iff.1 h), if_pos (unplugs_iff.2 hu), grace]
      rfl
    · rw [if_neg fun h => hs (starts_iff.1 h), if_neg fun h => hu (unplugs_iff.1 h)]
      rfl
  · have : s.stage5 b r = (withStop (s.userEnds b).1, (s.userEnds b).2) := by
      unfold State.stage5
      rw [if_pos ⟨stops, fresh, runs_iff.2 runs⟩]
      rfl
    rw [this, grace]
  · unfold State.stage5
    rw [if_neg fun ⟨stops, fresh, running⟩ => quiet ⟨runs_iff.1 running, stops, fresh⟩]
    rfl

end

section
/-! SUPPORT. The frame of an allocation run (R122 to R134): what its budgets, its targets and its settlement change, and that
nothing else does; curtailments (R148 to R151). -/

-- One proof after another: side by side, the package as one text takes a thread and its stack for each.
set_option Elab.async false

namespace Sys2Proof.Machine

variable {s t : State}

/-! ### What a settlement, a gate or an order changes -/

/-- What a settlement keeps of a bay's grants. -/
def Grants.Kept (g h : Grants) : Prop :=
  h.target = g.target ∧ h.acknowledged = g.acknowledged ∧ h.stranded = g.stranded ∧ h.zeroAcked = g.zeroAcked ∧
    h.startOrdinal = g.startOrdinal

/-- `t` differs from `s` in what is on order alone: orders, pending targets, held-back increases, and the lanes. -/
structure State.Orders (s t : State) : Prop where
  grants : ∀ b, (s.grant b).Kept (t.grant b)
  rest : { t with grants := s.grants, lanes := s.lanes } = s

namespace State.Orders

theorem refl (s : State) : s.Orders s := ⟨fun _ => ⟨rfl, rfl, rfl, rfl, rfl⟩, rfl⟩

theorem modGrant (h : s.Orders t) (b : BayNo) (f : Grants → Grants) (kept : ∀ g, Grants.Kept g (f g)) :
    s.Orders (t.modGrant b f) := by
  refine ⟨fun x => ?_, h.rest⟩
  by_cases e : x = b
  · subst e
    rw [State.grant_modGrant_self]
    obtain ⟨ht, ha, hs, hz, ho⟩ := h.grants x
    obtain ⟨kt, ka, ks, kz, ko⟩ := kept (t.grant x)
    exact ⟨kt.trans ht, ka.trans ha, ks.trans hs, kz.trans hz, ko.trans ho⟩
  · rw [State.grant_modGrant_ne _ _ _ _ e]
    exact h.grants x

theorem modLane (h : s.Orders t) (l : LaneNo) (f : Lane → Lane) : s.Orders (t.modLane l f) := ⟨h.grants, h.rest⟩

theorem handGrant (h : s.Orders t) (b : BayNo) (v : Nat) (flag : OrderFlag) : s.Orders (t.handGrant b v flag) := by
  unfold State.handGrant
  refine State.Orders.modLane (State.Orders.modGrant h b (fun g => { g with
    outstanding := some ⟨v, flag, decide (v < (t.grant b).committed)⟩
    startQueued := g.startQueued || flag == OrderFlag.start }) ?_) _ _
  exact fun _ => ⟨rfl, rfl, rfl, rfl, rfl⟩

theorem makeStop (h : s.Orders t) (b : BayNo) : s.Orders (t.makeStop b) := by
  unfold State.makeStop
  split
  · exact h.handGrant _ _ _
  · exact h.modGrant _ _ fun _ => ⟨rfl, rfl, rfl, rfl, rfl⟩

theorem releaseIncrease (h : s.Orders t) (b : BayNo) : s.Orders (t.releaseIncrease b) := by
  have unheld := h.modGrant b Grants.unheld fun _ => ⟨rfl, rfl, rfl, rfl, rfl⟩
  unfold State.releaseIncrease
  split
  · exact h
  · split
    · exact unheld.handGrant _ _ _
    · exact unheld.modGrant _ _ fun _ => ⟨rfl, rfl, rfl, rfl, rfl⟩

theorem testGate (h : s.Orders t) (f : FeederNo) : s.Orders (t.testGate f) := by
  unfold State.testGate
  split
  · rw [State.releaseIncreases_eq]
    exact foldl_keeps _ (fun _ _ hu => hu.releaseIncrease _) _ _ h
  · exact h

theorem testGateOf (h : s.Orders t) (b : BayNo) : s.Orders (t.testGateOf b) := by
  unfold State.testGateOf
  split
  · exact h.testGate _
  · exact h

theorem settleTarget (h : s.Orders t) (b : BayNo) : s.Orders (t.settleTarget b) := by
  unfold State.settleTarget
  dsimp only
  split
  · split <;> exact h.modGrant _ _ fun _ => ⟨rfl, rfl, rfl, rfl, rfl⟩
  · split
    · exact h.handGrant _ _ _
    · split
      · split
        · exact h
        · exact h.handGrant _ _ _
      · exact h.modGrant _ _ fun _ => ⟨rfl, rfl, rfl, rfl, rfl⟩

theorem settleTargets (s : State) : s.Orders s.settleTargets := by
  have discarded : s.Orders { s with grants := s.grants.map Grants.unheld } :=
    ⟨fun b => by simp [State.grant, Grants.Kept, Grants.unheld], rfl⟩
  rw [State.settleTargets_eq]
  exact foldl_keeps _ (fun _ _ hu => hu.testGate _) _ _ (foldl_keeps _ (fun _ _ hu => hu.settleTarget _) _ _ discarded)

end State.Orders

/-! ### What the writing of the targets changes (R129) -/

/-- `t` differs from `s` in targets, starved flags and their count alone. -/
structure State.Targets (s t : State) : Prop where
  bay : ∀ b, { t.bay b with starved := (s.bay b).starved } = s.bay b
  grant : ∀ b, { t.grant b with target := (s.grant b).target } = s.grant b
  rest : { t with bays := s.bays, grants := s.grants, counters := s.counters, notices := s.notices } = s

namespace State.Targets

theorem refl (s : State) : s.Targets s := ⟨fun _ => rfl, fun _ => rfl, rfl⟩

theorem starve (h : s.Targets t) (b : BayNo) (flag : Bool) : s.Targets (t.modBay b fun y => { y with starved := flag }) := by
  refine ⟨fun x => ?_, h.grant, h.rest⟩
  by_cases e : x = b
  · subst e
    rw [State.bay_modBay_self]
    exact h.bay x
  · rw [State.bay_modBay_ne _ _ _ _ e]
    exact h.bay x

theorem target (h : s.Targets t) (b : BayNo) (v : Nat) : s.Targets (t.modGrant b fun g => { g with target := v }) := by
  refine ⟨h.bay, fun x => ?_, h.rest⟩
  by_cases e : x = b
  · subst e
    rw [State.grant_modGrant_self]
    exact h.grant x
  · rw [State.grant_modGrant_ne _ _ _ _ e]
    exact h.grant x

theorem bump (h : s.Targets t) (c : Counter) : s.Targets (t.bump c) := by
  refine ⟨fun x => by rw [State.bay_bump]; exact h.bay x, fun x => by rw [State.grant_bump]; exact h.grant x, ?_⟩
  rw [State.bump_eq_of (t := t) (u := t) rfl rfl]
  exact h.rest

theorem writeTarget (h : s.Targets t) (x : Session) : s.Targets (t.writeTarget x) := by
  unfold State.writeTarget
  dsimp only
  split
  · split
    · exact (h.target _ _).starve _ _
    · exact ((h.target _ _).starve _ _).bump _
  · exact (h.target _ _).starve _ _

theorem clearTarget (h : s.Targets t) (b : BayNo) : s.Targets (t.clearTarget b) := (h.target _ _).starve _ _

theorem writeTargets (s : State) : s.Targets s.writeTargets := by
  unfold State.writeTargets
  dsimp only
  refine foldl_keeps _ (fun _ _ h => foldl_keeps _ (fun _ _ hu => hu.writeTarget _) _ _ h) _ _ ?_
  refine foldl_keeps _ (fun _ _ h => ?_) _ _ (refl s)
  split
  · exact h
  · exact h.clearTarget _

end State.Targets

/-! ### What the budgets change (R122 to R126) -/

/-- `t` differs from `s` in the budgets of the feeders and of the site alone. -/
structure State.Budgets (s t : State) : Prop where
  feeder : ∀ f, (t.feeder f).pledge = (s.feeder f).pledge ∧ (t.feeder f).stranded = (s.feeder f).stranded ∧
    (t.feeder f).monitor = (s.feeder f).monitor
  effective : t.effective = s.siteBudget
  rest : { t with feeders := s.feeders, effective := s.effective } = s

theorem State.Budgets.modFeeder (h : s.Budgets t) (f : FeederNo) (g : Feeder → Feeder)
    (kept : ∀ x, (g x).pledge = x.pledge ∧ (g x).stranded = x.stranded ∧ (g x).monitor = x.monitor) :
    s.Budgets (t.modFeeder f g) := by
  refine ⟨fun x => ?_, h.effective, h.rest⟩
  by_cases e : x = f
  · subst e
    obtain ⟨hp, hs, hm⟩ := h.feeder x
    obtain ⟨kp, ks, km⟩ := kept (t.feeder x)
    rw [State.feeder_modFeeder_self]
    exact ⟨kp.trans hp, ks.trans hs, km.trans hm⟩
  · rw [State.feeder_modFeeder_ne _ _ _ _ e]
    exact h.feeder x

theorem State.Budgets.writeBudgets (s : State) : s.Budgets s.writeBudgets :=
  foldl_keeps _ (fun _ _ h => h.modFeeder _ _ fun _ => ⟨rfl, rfl, rfl⟩) _ _ ⟨fun _ => ⟨rfl, rfl, rfl⟩, rfl, rfl⟩

/-! ### What an allocation run leaves as it was -/

/-- `t` differs from `s` in what an allocation run writes alone. -/
structure State.OffRun (s t : State) : Prop where
  bay : ∀ b, { t.bay b with starved := (s.bay b).starved } = s.bay b
  grant : ∀ b, (t.grant b).acknowledged = (s.grant b).acknowledged ∧ (t.grant b).stranded = (s.grant b).stranded ∧
    (t.grant b).zeroAcked = (s.grant b).zeroAcked ∧ (t.grant b).startOrdinal = (s.grant b).startOrdinal
  feeder : ∀ f, (t.feeder f).pledge = (s.feeder f).pledge ∧ (t.feeder f).stranded = (s.feeder f).stranded ∧
    (t.feeder f).monitor = (s.feeder f).monitor
  effective : t.effective = s.siteBudget
  rest : { t with
    feeders := s.feeders, effective := s.effective, grants := s.grants, bays := s.bays, counters := s.counters
    notices := s.notices, lanes := s.lanes } = s

theorem State.Orders.bays (h : s.Orders t) : t.bays = s.bays := (congrArg State.bays h.rest :)
theorem State.Orders.feeders (h : s.Orders t) : t.feeders = s.feeders := (congrArg State.feeders h.rest :)
theorem State.Orders.effective (h : s.Orders t) : t.effective = s.effective := (congrArg State.effective h.rest :)
theorem State.Targets.feeders (h : s.Targets t) : t.feeders = s.feeders := (congrArg State.feeders h.rest :)
theorem State.Targets.effective (h : s.Targets t) : t.effective = s.effective := (congrArg State.effective h.rest :)
theorem State.Budgets.bays (h : s.Budgets t) : t.bays = s.bays := (congrArg State.bays h.rest :)
theorem State.Budgets.grants (h : s.Budgets t) : t.grants = s.grants := (congrArg State.grants h.rest :)

/-- Budgets, then targets, then the settlement: together no more than what a run writes. -/
theorem State.OffRun.of_parts {x y z : State} (budgets : s.Budgets x) (targets : x.Targets y) (orders : y.Orders z) :
    s.OffRun z := by
  refine ⟨fun b => ?_, fun b => ?_, fun f => ?_, ?_, ?_⟩
  · have settled : z.bay b = y.bay b := by simp only [State.bay, orders.bays]
    have budgeted : x.bay b = s.bay b := by simp only [State.bay, budgets.bays]
    rw [settled, ← budgeted, targets.bay b]
  · have budgeted : x.grant b = s.grant b := by simp only [State.grant, budgets.grants]
    obtain ⟨-, ha, hs, hz, ho⟩ := orders.grants b
    have written := targets.grant b
    rw [budgeted] at written
    rw [ha, hs, hz, ho, ← written]
    exact ⟨rfl, rfl, rfl, rfl⟩
  · have settled : z.feeder f = x.feeder f := by simp only [State.feeder, orders.feeders, targets.feeders]
    rw [settled]
    exact budgets.feeder f
  · rw [orders.effective, targets.effective, budgets.effective]
  · let outside (u : State) : State := { u with
      feeders := s.feeders, effective := s.effective, grants := s.grants, bays := s.bays, counters := s.counters
      notices := s.notices, lanes := s.lanes }
    calc outside z = outside { z with grants := y.grants, lanes := y.lanes } := rfl
      _ = outside y := by rw [orders.rest]
      _ = outside { y with bays := x.bays, grants := x.grants, counters := x.counters, notices := x.notices } := rfl
      _ = outside x := by rw [targets.rest]
      _ = outside { x with feeders := s.feeders, effective := s.effective } := rfl
      _ = outside s := by rw [budgets.rest]
      _ = s := rfl

theorem State.offRun_allocationRun (s : State) : s.OffRun s.allocationRun := by
  unfold State.allocationRun
  exact .of_parts (.writeBudgets s) (.writeTargets _) (.settleTargets _)

namespace State.OffRun

theorem aspect (h : s.OffRun t) (b : BayNo) : (t.bay b).aspect = (s.bay b).aspect := (congrArg Bay.aspect (h.bay b) :)
theorem place (h : s.OffRun t) (b : BayNo) : (t.bay b).place = (s.bay b).place := (congrArg Bay.place (h.bay b) :)
theorem state (h : s.OffRun t) (b : BayNo) : (t.bay b).state = (s.bay b).state := (congrArg Bay.state (h.bay b) :)
theorem slots (h : s.OffRun t) : t.slots = s.slots := (congrArg State.slots h.rest :)
theorem plan (h : s.OffRun t) : t.plan = s.plan := (congrArg State.plan h.rest :)
theorem clock (h : s.OffRun t) : t.clock = s.clock := (congrArg State.clock h.rest :)
theorem deadlines (h : s.OffRun t) : t.deadlines = s.deadlines := (congrArg State.deadlines h.rest :)
theorem curtailment (h : s.OffRun t) : t.curtailment = s.curtailment := (congrArg State.curtailment h.rest :)
theorem highList (h : s.OffRun t) : t.highList = s.highList := (congrArg State.highList h.rest :)
theorem normalList (h : s.OffRun t) : t.normalList = s.normalList := (congrArg State.normalList h.rest :)

end State.OffRun

@[simp] theorem State.aspect_allocationRun (s : State) (b : BayNo) : (s.allocationRun.bay b).aspect = (s.bay b).aspect :=
  s.offRun_allocationRun.aspect b

@[simp] theorem State.place_allocationRun (s : State) (b : BayNo) : (s.allocationRun.bay b).place = (s.bay b).place :=
  s.offRun_allocationRun.place b

@[simp] theorem State.slots_allocationRun (s : State) : s.allocationRun.slots = s.slots := s.offRun_allocationRun.slots
@[simp] theorem State.plan_allocationRun (s : State) : s.allocationRun.plan = s.plan := s.offRun_allocationRun.plan
@[simp] theorem State.clock_allocationRun (s : State) : s.allocationRun.clock = s.clock := s.offRun_allocationRun.clock

@[simp] theorem State.deadlines_allocationRun (s : State) : s.allocationRun.deadlines = s.deadlines :=
  s.offRun_allocationRun.deadlines

@[simp] theorem State.curtailment_allocationRun (s : State) : s.allocationRun.curtailment = s.curtailment :=
  s.offRun_allocationRun.curtailment

@[simp] theorem State.highList_allocationRun (s : State) : s.allocationRun.highList = s.highList :=
  s.offRun_allocationRun.highList

@[simp] theorem State.normalList_allocationRun (s : State) : s.allocationRun.normalList = s.normalList :=
  s.offRun_allocationRun.normalList

theorem State.effective_allocationRun (s : State) : s.allocationRun.effective = s.siteBudget :=
  s.offRun_allocationRun.effective

theorem takeRun_rest_aspect (e : Ev) (b : BayNo) : ((takeRun e).bay b).aspect = (e.1.bay b).aspect := by
  unfold takeRun
  split
  · exact State.aspect_allocationRun _ _
  · rfl

/-! ### Curtailments (R148 to R151) -/

theorem State.siteLimit_eq (s : State) : s.siteLimit = match s.plan with | some plan => plan.site.limit | none => 0 := by
  unfold State.siteLimit
  cases s.plan <;> rfl

/-- A curtailment's end as it stands in a CURTAIL reply: a presence flag and the due time. -/
def endBytes : Option Deadline → List Byte
  | some d => 1 :: le 4 d.due
  | none => [0, 0, 0, 0, 0]

/-- The body of a CURTAIL reply, field by field (R148). -/
theorem State.curtailBody_eq (s before : State) : s.curtailBody before =
    le 2 s.curtailment ++ le 2 s.siteBudget ++ endBytes (s.deadlineOf .curtailment) ++ le 2 before.curtailment ++
      endBytes (before.deadlineOf .curtailment) := by
  have ends (u : State) : [flagByte u.curtailDue.isSome] ++ valueOr0 4 u.curtailDue = endBytes (u.deadlineOf .curtailment) := by
    unfold State.curtailDue
    cases u.deadlineOf .curtailment <;> rfl
  simp only [State.curtailBody, ← ends, List.append_assoc]

theorem State.deadlineOf_allocationRun (s : State) (o : Owner) : s.allocationRun.deadlineOf o = s.deadlineOf o := by
  simp only [State.deadlineOf, State.deadlines_allocationRun]

theorem State.siteBudget_allocationRun (s : State) : s.allocationRun.siteBudget = s.siteBudget := by
  simp only [State.siteBudget, State.siteLimit, State.plan_allocationRun, State.curtailment_allocationRun]

/-- A run taken or not does not change what a CURTAIL reply says. -/
theorem State.curtailBody_takeRun (e : Ev) (before : State) : (takeRun e).curtailBody before = e.1.curtailBody before := by
  unfold takeRun
  split
  · rw [State.curtailBody_eq, State.curtailBody_eq, State.deadlineOf_allocationRun, State.siteBudget_allocationRun,
      State.curtailment_allocationRun]
  · rfl

theorem State.deadlineOf_dropDeadline (s : State) (o : Owner) : (s.dropDeadline o).deadlineOf o = none := by
  simp [State.deadlineOf, State.dropDeadline, List.find?_filter]

/-- A request whose event is a change of no lamp, then a run or none. -/
theorem State.taken_run {c : Instr} {e : Ev} {a : Answer} (h : ∀ x, (e.1.bay x).aspect = (s.bay x).aspect) :
    s.taken c (takeRun e, a) = .next ((takeRun e).answered c a.status a.body) :=
  State.taken_of_aspect fun x => (takeRun_rest_aspect e x).trans (h x)

end Sys2Proof.Machine

open Sys2Proof Sys2Proof.Machine

/-- Settles O43: a curtailment set, replaced or ended, with the run its change of C calls for. -/
theorem curtailmentsStartAndEnd : Obligations.CurtailmentsStartAndEnd := by
  intro s limit others last
  have limit_eq : s.siteLimit = limit := s.siteLimit_eq
  have last_eq : endBytes (s.deadlineOf .curtailment) = last := by
    simp only [last]
    cases s.deadlineOf .curtailment <;> rfl
  refine ⟨fun a d taken ha low high => ?_, fun d taken active => ?_, fun d taken inactive zero => ?_, fun due active => ?_⟩
  · intro due u t
    have amount : a.toNat ≠ 0 := fun e => ha (BitVec.eq_of_toNat_eq e)
    have event : State.startCurtailment s a.toNat d.toNat = takeRun (u, decide (a.toNat ≠ s.curtailment)) := rfl
    have run : takeRun (u, decide (a.toNat ≠ s.curtailment)) = t := by
      by_cases same : a.toNat = s.curtailment <;> simp [takeRun, t, same]
    have ends : endBytes (u.deadlineOf .curtailment) = 1 :: le 4 due := by
      have : u.deadlineOf .curtailment = some ⟨.curtailEnd, .curtailment, due⟩ :=
        State.deadlineOf_startDeadline { s with curtailment := a.toNat } .curtailEnd .curtailment d.toNat
      rw [this]
      rfl
    have body : (takeRun (u, decide (a.toNat ≠ s.curtailment))).curtailBody s =
        le 2 a.toNat ++ le 2 (limit - a.toNat) ++ 1 :: le 4 due ++ le 2 s.curtailment ++ last := by
      rw [State.curtailBody_takeRun, State.curtailBody_eq, ends, last_eq, ← limit_eq]
      rfl
    have curtails : State.curtail a.toNat d.toNat s = (takeRun (u, decide (a.toNat ≠ s.curtailment)),
        ⟨.ok, (takeRun (u, decide (a.toNat ≠ s.curtailment))).curtailBody s⟩) := by
      simp only [State.curtail, if_neg amount, event]
    have taken' := State.taken_run (s := s) (c := .curtail a d) (e := (u, decide (a.toNat ≠ s.curtailment)))
      (a := ⟨.ok, (takeRun (u, decide (a.toNat ≠ s.curtailment))).curtailBody s⟩) fun _ => rfl
    rw [exec_curtail taken, curtails, taken', body, run]
  · intro u t
    have isSome : (s.deadlineOf .curtailment).isSome = true := by
      rwa [Option.isSome_iff_ne_none]
    have event : State.endCurtailment s = takeRun (u, decide (0 < s.curtailment)) := by
      unfold State.endCurtailment
      rw [if_pos isSome]
      rfl
    have run : takeRun (u, decide (0 < s.curtailment)) = t := by
      by_cases zero : s.curtailment = 0 <;> simp [takeRun, t, zero, Nat.pos_iff_ne_zero]
    have ended : u.deadlineOf .curtailment = none := State.deadlineOf_dropDeadline _ _
    have body : (takeRun (u, decide (0 < s.curtailment))).curtailBody s =
        le 2 0 ++ le 2 limit ++ [0, 0, 0, 0, 0] ++ le 2 s.curtailment ++ last := by
      rw [State.curtailBody_takeRun, State.curtailBody_eq, ended, last_eq, ← limit_eq]
      rfl
    have curtails : State.curtail 0 d.toNat s = (takeRun (u, decide (0 < s.curtailment)),
        ⟨.ok, (takeRun (u, decide (0 < s.curtailment))).curtailBody s⟩) := by
      simp only [State.curtail, if_true, event]
    have taken' := State.taken_run (s := s) (c := .curtailAmountZero d) (e := (u, decide (0 < s.curtailment)))
      (a := ⟨.ok, (takeRun (u, decide (0 < s.curtailment))).curtailBody s⟩) fun _ => rfl
    rw [exec_curtailAmountZero d taken, curtails, taken', body, run]
  · have event : State.endCurtailment s = s := by
      unfold State.endCurtailment
      rw [inactive]
      rfl
    have body : s.curtailBody s = le 2 0 ++ le 2 limit ++ [0, 0, 0, 0, 0] ++ le 2 0 ++ last := by
      rw [State.curtailBody_eq, last_eq, ← last_eq, inactive, ← limit_eq, State.siteBudget, zero]
      rfl
    have curtails : State.curtail 0 d.toNat s = (s, ⟨.ok, s.curtailBody s⟩) := by
      simp only [State.curtail, if_true, event]
    rw [exec_curtailAmountZero d taken, curtails, body]
    exact State.taken_of_bays rfl
  · intro u
    refine ⟨?_, State.curtailment_allocationRun u, ?_⟩
    · show Host.Outcome.next (s.expireEntry .curtailEnd .curtailment) = _
      simp only [State.expireEntry, active, if_true]
      exact congrArg _ (aspectOrders_same _ _ fun x _ => State.aspect_allocationRun u x)
    · rw [State.effective_allocationRun, ← limit_eq]
      rfl

end

section
/-! SUPPORT. The clock and the deadlines (chapter 6, R37, R38, R69 to R71): insertion by due time, the expiry pass head by head, and
what each expiry leaves. -/

-- One proof after another: side by side, the package as one text takes a thread and its stack for each.
set_option Elab.async false

namespace Sys2Proof.Machine

variable {s : State} {i : SlotNo} {b : BayNo} {r : Reservation} {p : BayPlan} {plan : Plan}

/-! ### The order of the deadline list (R113) -/

/-- In a list in order of due time an entry goes behind those due no later and ahead of those due later. -/
theorem insertByDue_eq (d : Deadline) (ds : List Deadline) (ordered : ds.Pairwise fun a b => a.due ≤ b.due) :
    insertByDue d ds = (ds.filter fun e => decide (e.due ≤ d.due)) ++ d :: (ds.filter fun e => decide (d.due < e.due)) := by
  induction ds with
  | nil => rfl
  | cons e es ih =>
    obtain ⟨first, ordered⟩ := List.pairwise_cons.1 ordered
    by_cases later : d.due < e.due
    · have none_before : es.filter (fun x => decide (x.due ≤ d.due)) = [] :=
        List.filter_eq_nil_iff.2 fun x hx => by have := first x hx; simp; omega
      have all_after : es.filter (fun x => decide (d.due < x.due)) = es :=
        List.filter_eq_self.2 fun x hx => by have := first x hx; simp; omega
      simp [insertByDue, later, none_before, all_after]
    · simp [insertByDue, later, ih ordered, Nat.le_of_not_lt later]

/-! ### The expiry pass (R116) -/

/-- The head of the deadline list leaves it and expires. -/
def State.takeHead (u : State) : State :=
  match u.deadlines with
  | d :: rest => ({ u with deadlines := rest } : State).expire d
  | [] => u

/-- The head of the deadline list is due at a reading. -/
def State.headDue (u : State) (reading : Nat) : Prop := ∃ d rest, u.deadlines = d :: rest ∧ d.due ≤ reading

/-- What no expiry touches is in `t` as in `s`. -/
def State.SameOverPass (s t : State) : Prop :=
  t.clock = s.clock ∧ t.plan = s.plan ∧ t.port = s.port ∧ t.staged = s.staged ∧ t.snapshot = s.snapshot

theorem State.sameOverPass_keepsExpiry (s : State) : KeepsExpiry s.SameOverPass where
  modBay _ _ _ h _ := h
  modGrant _ _ _ h := h
  modUnit _ _ _ h _ := h
  modFeeder _ _ _ h _ := h
  modLane _ _ _ h _ := h
  modRecord _ _ _ h := h
  freeSlot _ _ _ h _ := h
  takeSlot _ _ _ _ h _ := h
  setMark _ _ h := h
  lists _ _ _ h := h
  ratioCount _ _ h _ := h
  deadlines _ _ h _ := h
  effective _ _ h := h
  sessions _ _ h := h
  raise _ _ h _ := h
  bump t c h := by
    unfold State.bump
    dsimp only
    split <;> exact h
  curtailment _ _ h := h

theorem State.sameOverPass_takeHead {u : State} (h : s.SameOverPass u) : s.SameOverPass u.takeHead := by
  unfold State.takeHead
  split
  · exact s.sameOverPass_keepsExpiry.expire _ _ h
  · exact h

theorem State.sameOverPass_iterate (n : Nat) {u : State} (h : s.SameOverPass u) : s.SameOverPass (State.takeHead^[n] u) := by
  induction n generalizing u with
  | zero => exact h
  | succ n ih => exact ih (sameOverPass_takeHead h)

/-- The pass takes the heads that are due and stops at the first that is not. -/
theorem State.expiryPass_eq (n fuel : Nat) (u : State) (due : ∀ k, k < n → (State.takeHead^[k] u).headDue u.clock)
    (last : ¬(State.takeHead^[n] u).headDue u.clock) (enough : n ≤ fuel) :
    State.expiryPass fuel u = (State.takeHead^[n] u, n) := by
  induction n generalizing u fuel with
  | zero =>
    cases fuel with
    | zero => rfl
    | succ fuel =>
      unfold State.expiryPass
      split
      · rfl
      · next d rest stands => exact if_neg fun h => last ⟨d, rest, stands, h⟩
  | succ n ih =>
    obtain ⟨fuel, rfl⟩ : ∃ m, fuel = m + 1 := ⟨fuel - 1, by omega⟩
    obtain ⟨d, rest, stands, first⟩ := due 0 (Nat.succ_pos n)
    have head : u.takeHead = ({ u with deadlines := rest } : State).expire d := by
      unfold State.takeHead
      rw [show u.deadlines = d :: rest from stands]
    have clock : u.takeHead.clock = u.clock := (sameOverPass_takeHead ⟨rfl, rfl, rfl, rfl, rfl⟩).1
    have passed := ih fuel u.takeHead (fun k hk => by rw [clock]; exact due (k + 1) (by omega)) (by rw [clock]; exact last) (by omega)
    unfold State.expiryPass
    rw [show u.deadlines = d :: rest from stands]
    simp only [show d.due ≤ u.clock from first, if_true, ← head, passed]
    rfl

theorem State.advanceClock_eq (n reading : Nat)
    (due : ∀ k, k < n → (State.takeHead^[k] { s with clock := reading }).headDue reading)
    (last : ¬(State.takeHead^[n] { s with clock := reading }).headDue reading) (enough : n ≤ s.deadlines.length + 4096) :
    s.advanceClock reading = (State.takeHead^[n] { s with clock := reading }, n) :=
  State.expiryPass_eq n s.passFuel { s with clock := reading } due last enough

theorem State.clock_aspectOrders (t u : State) : (State.aspectOrders t u).clock = u.clock :=
  (u.sameOverPass_keepsExpiry.aspectOrders t u ⟨rfl, rfl, rfl, rfl, rfl⟩).1

theorem State.expireEntry_eq {d : Deadline} (stands : s.deadlineOf d.owner = some d) :
    s.expireEntry d.kind d.owner = State.aspectOrders s ((s.dropDeadline d.owner).expire d) := by
  simp only [State.expireEntry, stands, if_true]

/-! ### A lamp changed or not -/

/-- An event that changes the lamp of planned bay `b` and of no other hands the lane of `b` its order. -/
theorem State.aspectOrders_set {t : State} {x : Bay} (bays : t.bays = s.bays.set b.val x) (planned : x.place.isSome = true)
    (lamp : x.aspect ≠ (s.bay b).aspect) (lanes : t.lanes = s.lanes) (units : t.units = s.units) :
    State.aspectOrders s t = { t with lanes := (s.aspectOrder b false).lanes } := by
  have others (y : BayNo) (h : y ≠ b) : (t.bay y).aspect = (s.bay y).aspect := by rw [State.bay_of_set bays, if_neg h]
  have here : t.bay b = x := by rw [State.bay_of_set bays, if_pos rfl]
  rw [aspectOrders_one _ _ b others, here, if_pos (by simp [planned, lamp]), State.aspectOrder_eq,
    State.lanes_aspectOrder_congr lanes units]

/-- A bay not OUT_OF_SERVICE enters a state of the same lamp with no more than its state changed. -/
theorem Bay.enter_eq_of_lawful {x : Bay} {st : BayState} (lawful : x.Lawful) (serves : x.state ≠ .outOfService)
    (lamp : st.aspect = x.state.aspect) : x.enter st = { x with state := st } := by
  obtain ⟨aspect, reason⟩ := lawful
  have unreasoned : x.reason = none := Option.not_isSome_iff_eq_none.1 (by rw [reason]; simpa using serves)
  obtain ⟨⟩ := x
  simp_all [Bay.enter]

/-! ### The deadlines of a record and of a bay -/

theorem State.enter_bump (c : Counter) (st : BayState) : (s.bump c).enter b st = (s.enter b st).bump c := by
  rw [State.bump_eq_of (t := s.enter b st) (u := s) rfl rfl, State.bump_eq_of (t := s) (u := s) rfl rfl]
  rfl

theorem State.lanes_set_bump (s : State) (c : Counter) (lanes : Vector Lane 4) :
    { s.bump c with lanes := lanes } = ({ s with lanes := lanes } : State).bump c := by
  rw [State.bump_eq_of (t := { s with lanes := lanes }) (u := s) rfl rfl, State.bump_eq_of (t := s) (u := s) rfl rfl]

theorem State.vacated_dropDeadline (o : Ending) : (s.dropDeadline (.slot i)).vacated i o = s.vacated i o := by
  simp [State.vacated, State.dropDeadline, State.slot, List.filter_filter]

/-- A retirement removes the record's deadline itself. -/
theorem State.retire_dropDeadline (hr : s.record i = some r) (bound : ∀ b, r.bay = some b → ∃ p, (s.bay b).place = some p)
    (o : Ending) : (s.dropDeadline (.slot i)).retire i o = s.retire i o := by
  have away : (s.dropDeadline (.slot i)).record i = some r := hr
  cases hb : r.bay with
  | none =>
    rw [State.retire_unbound hr hb, State.retire_unbound away hb, State.vacated_dropDeadline]
    rfl
  | some b =>
    obtain ⟨p, hp⟩ := bound b hb
    have placed : ((s.dropDeadline (.slot i)).bay b).place = some p := hp
    rw [State.retire_planned hr hb hp, State.retire_planned away hb placed, State.vacated_dropDeadline]
    rfl

/-- An offer with nobody waiting leaves everything as it was. -/
theorem State.offer_empty (high : s.highList = []) (normal : s.normalList = []) : s.offer b = s := by
  have served (ratio : RatioSetting) (n : Nat) : serveRatio ratio n none none = (none, n) := by
    unfold serveRatio
    split
    · rfl
    · split <;> rfl
  cases hplan : s.plan with
  | none => simp only [State.offer, hplan]
  | some plan =>
    have first : s.highList.find? (s.fits b) = none := by rw [high]; rfl
    have second : s.normalList.find? (s.fits b) = none := by rw [normal]; rfl
    rw [State.offer_eq hplan, first, second]
    dsimp only
    rw [served]

theorem State.deadlineOf_dropDeadline_ne {o q : Owner} (h : o ≠ q) : (s.dropDeadline q).deadlineOf o = s.deadlineOf o := by
  unfold State.deadlineOf State.dropDeadline
  dsimp only
  rw [List.find?_filter]
  refine congrArg (List.find? · s.deadlines) (funext fun d => ?_)
  by_cases e : d.owner = o <;> simp [e, h]

/-- The end of a session changes no lamp, for a CHARGING bay shows IN_USE. -/
theorem State.aspect_endSession (lamp : (s.bay b).state = .charging → (s.bay b).aspect = .inUse) (stop mark : Bool) (x : BayNo) :
    ((s.endSession b stop mark).bay x).aspect = (s.bay x).aspect := by
  cases runs : s.charging b with
  | false => rw [State.endSession_idle runs]
  | true =>
    obtain ⟨i, q, hb, hr, st⟩ := (State.charging_iff b).1 runs
    have bays : (s.endSession b stop mark).bays = s.bays.set b.val
        (if (s.bay b).state = .charging then
          { s.bay b with state := .engaged, aspect := .inUse, reason := none, starved := false }
         else { s.bay b with starved := false }) := by
      rw [State.endSession_eq hb hr st]
      cases stop <;> cases mark <;> simp [State.sessionEnded]
    refine State.aspect_of_set bays ?_ x
    split
    · next charging => exact (lamp charging).symm
    · rfl

end Sys2Proof.Machine

open Sys2Proof Sys2Proof.Machine

/-- Settles O36: the list's order by the insertion, the pass by induction on the heads it takes. -/
theorem theClockAdvancesWithItsExpiryPass : Obligations.TheClockAdvancesWithItsExpiryPass := by
  refine ⟨fun d ds ordered => ⟨insertByDue_eq d ds ordered, insertByDue_sorted d ds ordered⟩, fun _ _ _ _ => rfl,
    fun v s taken => ⟨fun below => ?_, fun at_ => ?_⟩, fun s n reading => ?_, fun s d stands => ?_⟩
  · have refused : s.setClock v.toNat = (s, ⟨.clockBackward, le 4 s.clock ++ le 2 0⟩) := if_pos below
    rw [exec_setClock v taken, refused]
    exact State.taken_of_bays rfl
  · have answered : s.setClock v.toNat = (s, ⟨.ok, le 4 s.clock ++ le 2 0⟩) := by
      rw [State.setClock, if_neg (by omega), if_pos at_]
    rw [exec_setClock v taken, answered]
    exact State.taken_of_bays rfl
  · intro takeHead after due heads last enough
    have passed : s.advanceClock reading = (after n, n) := State.advanceClock_eq n reading heads last enough
    obtain ⟨clock, plan, port, staged, snapshot⟩ : ({ s with clock := reading } : State).SameOverPass (after n) :=
      State.sameOverPass_iterate n ⟨rfl, rfl, rfl, rfl, rfl⟩
    refine ⟨fun pulse => ?_, fun v taken value above => ?_, (State.clock_aspectOrders _ _).trans clock, plan, port, staged, snapshot⟩
    · have ticked : satAdd Config.max32 s.clock 1 = reading := pulse.symm
      show Host.Outcome.next (State.aspectOrders s (s.advanceClock (satAdd Config.max32 s.clock 1)).1) = _
      rw [ticked, passed]
    · have set : s.setClock v.toNat = (after n, ⟨.ok, le 4 reading ++ le 2 (min n 65535)⟩) := by
        rw [State.setClock, value, if_neg (by omega), if_neg (by omega), passed]
        exact congrArg (fun x => (after n, (⟨.ok, le 4 x ++ le 2 (min n 65535)⟩ : Answer))) clock
      rw [exec_setClock v taken, set]
      rfl
  · have expires : s.expireEntry d.kind d.owner = State.aspectOrders s ((s.dropDeadline d.owner).expire d) :=
      State.expireEntry_eq stands
    refine ⟨fun i owner => ⟨?_, ?_, ?_⟩, fun b owner => ⟨?_, ?_⟩, fun owner => ?_⟩ <;>
      (intro kind; rw [owner, kind] at expires; rw [owner]; exact congrArg Host.Outcome.next expires)

/-- Settles O38: the record retired, its bay freed and offered; with nobody waiting, that and its lamp alone. -/
theorem slotDeadlinesRetireTheRecord : Obligations.SlotDeadlinesRetireTheRecord := by
  refine ⟨fun s i r b p due hr held hb hp atHeld lawful stands => ?_, fun s i r due hr waiting hb stands => ?_⟩
  · intro freed
    have event : exec (.holdEnd i) s = .next (State.aspectOrders s (freed.offer b)) := by
      have away : (s.dropDeadline (.slot i)).record i = some r := hr
      have retired := State.retire_dropDeadline hr (fun y hy => ⟨p, by rwa [← Option.some.inj (hb.symm.trans hy)]⟩) .noShow
      show Host.Outcome.next (s.expireEntry .holdEnd (.slot i)) = _
      rw [State.expireEntry_eq (d := ⟨.holdEnd, .slot i, due⟩) stands]
      simp only [State.expire, State.holdExpires, away, held, hb, retired]
      rfl
    refine ⟨event, ?_⟩
    intro high normal u
    have unreasoned : (s.bay b).reason = none := Option.not_isSome_iff_eq_none.1 (by rw [lawful.2, atHeld]; decide)
    have lamp : (s.bay b).aspect = .reserved := by simpa [atHeld, BayState.aspect] using lawful.1
    have retired : (s.retire i .noShow).enter b .free =
        { u with notices := s.notices.evaluate u.markedCount, lanes := s.lanes } := by
      rw [State.retire_planned hr hb hp]
      apply State.ext <;>
        simp [u, State.vacated, State.enter, State.modBay, State.bay, Bay.enter, BayState.aspect, State.markedCount, high, normal]
      rw [show s.bays[b.val].reason = none from unreasoned]
    have freed_eq : freed = ({ u with notices := s.notices.evaluate u.markedCount, lanes := s.lanes } : State).bump .noShows := by
      rw [← retired]
      exact State.enter_bump _ _
    have here : u.bay b = { s.bay b with state := .free, aspect := .available, bound := none, keptHold := false } := by
      simp [u, State.bay]
    have bays : freed.bays = s.bays.set b.val (u.bay b) := by
      rw [freed_eq, State.bays_bump, here]
    rw [event, State.offer_empty (by rw [freed_eq]; simpa [u] using high) (by rw [freed_eq]; simpa [u] using normal),
      State.aspectOrders_set bays (by simp [here, hp]) (by simp [here, lamp])
        (by rw [freed_eq]; simp) (by rw [freed_eq]; simp [u]), freed_eq]
    exact congrArg _ (State.lanes_set_bump _ _ _)
  · intro u
    have away : (s.dropDeadline (.slot i)).record i = some r := hr
    have retired : (s.dropDeadline (.slot i)).retire i .waitExpired = { u with notices := s.notices.evaluate u.markedCount } := by
      rw [State.retire_dropDeadline hr (by simp [hb]), State.retire_unbound hr hb]
      rfl
    show Host.Outcome.next (s.expireEntry .waitEnd (.slot i)) = _
    rw [State.expireEntry_eq (d := ⟨.waitEnd, .slot i, due⟩) stands]
    simp only [State.expire, State.waitExpires, away, waiting, retired]
    exact congrArg _ (aspectOrders_bays (by simp [u]))

/-- Settles O40: the stay runs out by the record's and the bay's state; no lamp changes. -/
theorem stayEndExhaustsTheStay : Obligations.StayEndExhaustsTheStay := by
  intro s i r b due plan hplan hr hb stands others u v grace
  have away : (s.dropDeadline (.slot i)).record i = some r := hr
  have marked : ((s.dropDeadline (.slot i)).modRecord i fun x => { x with stayExhausted := true }).setMark i = v := by
    rw [State.modRecord_live away]
    apply State.ext <;>
      simp [v, u, others, State.setMark, State.evaluateChanges, State.modSlot, State.dropDeadline, State.slot, State.markedCount]
  have expires (runs : r.state = .charging ∨ r.state = .engaged) : exec (.stayEnd i) s =
      .next (State.aspectOrders s (takeRun ((s.dropDeadline (.slot i)).stayRunsOut i r true))) := by
    show Host.Outcome.next (s.expireEntry .stayEnd (.slot i)) = _
    rw [State.expireEntry_eq (d := ⟨.stayEnd, .slot i, due⟩) stands]
    rcases runs with st | st <;> simp only [State.expire, State.stayExpires, away, st]
  have graceTime : (s.dropDeadline (.slot i)).graceTime = plan.site.graceTime := State.graceTime_plan hplan
  have atBay : (s.dropDeadline (.slot i)).bay b = s.bay b := rfl
  have lamps {t : State} (h : t.bays = s.bays) : State.aspectOrders s t = t := aspectOrders_bays h
  have owed : v.deadlineOf (.bay b) = s.deadlineOf (.bay b) := State.deadlineOf_dropDeadline_ne (by simp)
  refine ⟨fun st atEngaged runs => ?_, fun st atEngaged idle => ?_, fun st out => ?_, fun st atCharging lawful => ?_,
    fun st out => ?_⟩
  · rw [expires (.inr st)]
    simp only [State.stayRunsOut, marked, hb, st, atBay, atEngaged, if_true, owed, Option.isSome_iff_ne_none.2 runs, takeRun,
      Bool.false_eq_true, if_false]
    exact congrArg _ (lamps rfl)
  · rw [expires (.inr st)]
    simp only [State.stayRunsOut, marked, hb, st, atBay, atEngaged, if_true, owed, idle, takeRun, graceTime, Option.isSome_none,
      Bool.false_eq_true, if_false]
    exact congrArg _ (lamps rfl)
  · rw [expires (.inr st)]
    simp only [State.stayRunsOut, marked, hb, st, atBay, out, if_true, takeRun, Bool.false_eq_true, if_false]
    exact congrArg _ (lamps rfl)
  · have lamp : (s.bay b).aspect = .inUse := by simpa [atCharging, BayState.aspect] using lawful.1
    rw [expires (.inl st)]
    simp only [State.stayRunsOut, marked, hb, st, atBay, atCharging, if_true, takeRun, graceTime]
    exact congrArg _ (aspectOrders_same _ _ fun x _ => (State.aspect_allocationRun _ x).trans
      (State.aspect_endSession (s := v) (fun _ => lamp) true true x))
  · rw [expires (.inl st)]
    simp only [State.stayRunsOut, marked, hb, st, atBay, out, if_true, takeRun]
    exact congrArg _ (aspectOrders_same _ _ fun x _ => (State.aspect_allocationRun _ x).trans
      (State.aspect_endSession (s := v) (fun h => absurd (h.symm.trans out) (by decide)) true true x))

/-- Settles O41: an identifying bay BLOCKED, an ENGAGED one OVERSTAY; neither changes its lamp. -/
theorem bayDeadlinesMoveTheBay : Obligations.BayDeadlinesMoveTheBay := by
  refine ⟨fun s b due st lawful stands => ?_, fun s b i r due st lawful hb hr stands => ?_⟩
  · intro u
    have blocked : (s.bay b).enter .blocked = { s.bay b with state := .blocked } :=
      Bay.enter_eq_of_lawful lawful (by rw [st]; decide) (by rw [st]; rfl)
    have entered : ((s.dropDeadline (.bay b)).enter b .blocked).raise .bayAlert = u := by
      simp only [u, ← blocked]
      rfl
    have atBay : (s.dropDeadline (.bay b)).bay b = s.bay b := rfl
    have event : exec (.identifyEnd b) s =
        .next (State.aspectOrders s ((s.dropDeadline (.bay b)).identifyExpires b)) :=
      congrArg Host.Outcome.next (State.expireEntry_eq (d := ⟨.identifyEnd, .bay b, due⟩) stands)
    rw [event]
    simp only [State.identifyExpires, atBay, st, entered]
    refine ⟨fun unkept => ?_, fun i r kept hb hr held => ?_⟩
    · have bays : u.bays = s.bays.set b.val { s.bay b with state := .blocked } := rfl
      simp only [unkept, Bool.false_eq_true, if_false]
      exact congrArg _ (aspectOrders_same _ _ fun x _ => State.aspect_of_set bays rfl x)
    · have bound : (u.bay b).bound = some i := by simpa [u, State.bay] using hb
      have record : u.record i = some r := hr
      simp only [kept, if_true, State.rehomeHeldAt, bound, record, held]
      rfl
  · intro u
    have entered : (s.bay b).enter .overstay = { s.bay b with state := .overstay } :=
      Bay.enter_eq_of_lawful lawful (by rw [st]; decide) (by rw [st]; rfl)
    have atBay : (s.dropDeadline (.bay b)).bay b = s.bay b := rfl
    have bays : u.bays = s.bays.set b.val { s.bay b with state := .overstay } := rfl
    have event : (s.dropDeadline (.bay b)).graceExpires b = { u with notices := u.notices.evaluate u.markedCount } := by
      have record : s.slots[i.val].record = some r := hr
      have bumped := State.bump_eq_of (t := (s.dropDeadline (.bay b)).enter b .overstay) (u := s) rfl rfl .overstays
      simp only [State.graceExpires, atBay, st, hb]
      rw [bumped]
      apply State.ext <;>
        simp [u, State.setMark, State.evaluateChanges, State.modSlot, State.modRecord, State.dropDeadline, State.slot,
          State.markedCount, State.enter, State.modBay, record]
      exact congrArg (fun x => s.bays.set b.val x) entered
    show Host.Outcome.next (s.expireEntry .graceEnd (.bay b)) = _
    rw [State.expireEntry_eq (d := ⟨.graceEnd, .bay b, due⟩) stands]
    simp only [State.expire, event]
    exact congrArg _ (aspectOrders_same _ _ fun x _ => State.aspect_of_set bays rfl x)

end

section
/-! SUPPORT. The lanes and the site's budget (R23, R125, R133, R158 to R161): how orders join a queue, the choice of the next exchange,
the settlement of an acknowledged order, and the hand-out of the leftover. -/

-- One proof after another: side by side, the package as one text takes a thread and its stack for each.
set_option Elab.async false

namespace Sys2Proof.Machine

variable {s t : State} {b : BayNo} {l : LaneNo}

/-! ### Queues (R158) -/

/-- The entry a grant order merges with: an aspect-only one queued for the unit. -/
def Entry.mergesAt (e : Entry) (b : BayNo) : Bool := e.bay == b && e.grant.isNone && !e.onLine

theorem queueGrant_eq (b : BayNo) (o : GrantOrder) (q : List Entry) :
    queueGrant b o q =
      q.filter (fun e => !e.mergesAt b) ++ [⟨b, some o, (q.filter fun e => e.mergesAt b).any (·.flash), false⟩] := rfl

theorem queueGrant_plain (o : GrantOrder) {q : List Entry} (h : ∀ e ∈ q, e.mergesAt b = false) :
    queueGrant b o q = q ++ [⟨b, some o, false, false⟩] := by
  have kept : q.filter (fun e => !e.mergesAt b) = q := List.filter_eq_self.2 fun e he => by simp [h e he]
  have merged : q.filter (fun e => e.mergesAt b) = [] := List.filter_eq_nil_iff.2 fun e he => by simp [h e he]
  rw [queueGrant_eq, kept, merged]
  rfl

theorem queueGrant_merges (o : GrantOrder) {front back : List Entry} {e : Entry} (here : e.mergesAt b = true)
    (others : ∀ y ∈ front ++ back, y.mergesAt b = false) :
    queueGrant b o (front ++ e :: back) = front ++ back ++ [⟨b, some o, e.flash, false⟩] := by
  have kept (q : List Entry) (h : ∀ y ∈ q, y.mergesAt b = false) : q.filter (fun e => !e.mergesAt b) = q :=
    List.filter_eq_self.2 fun y hy => by simp [h y hy]
  have merged (q : List Entry) (h : ∀ y ∈ q, y.mergesAt b = false) : q.filter (fun e => e.mergesAt b) = [] :=
    List.filter_eq_nil_iff.2 fun y hy => by simp [h y hy]
  have hf := fun y hy => others y (List.mem_append_left _ hy)
  have hb := fun y hy => others y (List.mem_append_right _ hy)
  rw [queueGrant_eq]
  simp [kept front hf, kept back hb, merged front hf, merged back hb, here]

theorem flashFirst_append {front back : List Entry} {e : Entry} (here : e.bay = b ∧ e.onLine = false)
    (before : ∀ y ∈ front, ¬(y.bay = b ∧ y.onLine = false)) :
    flashFirst b (front ++ e :: back) = front ++ { e with flash := true } :: back := by
  induction front with
  | nil => simp [flashFirst, here]
  | cons y front ih =>
    have away : (y.bay == b && !y.onLine) = false := by
      simpa using before y List.mem_cons_self
    simp only [List.cons_append, flashFirst, away, Bool.false_eq_true, if_false]
    rw [ih fun z hz => before z (List.mem_cons_of_mem _ hz)]

theorem queueAspect_joins (flash : Bool) {q : List Entry} (h : ∀ e ∈ q, ¬(e.bay = b ∧ e.onLine = false)) :
    queueAspect b flash q = q ++ [⟨b, none, flash, false⟩] := by
  have empty : ¬(q.any fun e => e.bay == b && !e.onLine) = true := by simpa using h
  rw [queueAspect, if_neg empty]

theorem queueAspect_merges (flash : Bool) {front back : List Entry} {e : Entry} (here : e.bay = b ∧ e.onLine = false)
    (before : ∀ y ∈ front, ¬(y.bay = b ∧ y.onLine = false)) :
    queueAspect b flash (front ++ e :: back) = front ++ { e with flash := e.flash || flash } :: back := by
  have queued : ((front ++ e :: back).any fun e => e.bay == b && !e.onLine) = true := by simp [here]
  rw [queueAspect, if_pos queued, flashFirst_append here before]
  cases flash <;> simp

/-! ### The poll cycle (R160) -/

/-- In a strictly ascending list the first element that passes a test is the least that does. -/
theorem find?_eq_some_of_least {n : Nat} {p : Fin n → Bool} {xs : List (Fin n)} {a : Fin n} (ascending : xs.Pairwise (· < ·))
    (mem : a ∈ xs) (passes : p a = true) (least : ∀ x ∈ xs, p x = true → a ≤ x) : xs.find? p = some a := by
  induction xs with
  | nil => cases mem
  | cons x xs ih =>
    obtain ⟨below, ascending⟩ := List.pairwise_cons.1 ascending
    rcases List.mem_cons.1 mem with rfl | later
    · simp [passes]
    · have fails : p x = false := by
        by_contra h
        exact absurd (least x List.mem_cons_self (by simpa using h)) (not_le.2 (below a later))
      rw [List.find?_cons_of_neg (by simp [fails])]
      exact ih ascending later fun y hy => least y (List.mem_cons_of_mem _ hy)

theorem State.mem_plannedAddrs (a : LaneAddr) : a ∈ s.plannedAddrs l ↔ (s.bay (bayAt l a)).place ≠ none := by
  simp [State.plannedAddrs, Option.isSome_iff_ne_none]

theorem State.plannedAddrs_ascending : (s.plannedAddrs l).Pairwise (· < ·) := by
  unfold State.plannedAddrs
  exact (List.pairwise_lt_finRange 128).filter _

theorem State.head_plannedAddrs {a : LaneAddr} (planned : (s.bay (bayAt l a)).place ≠ none)
    (lowest : ∀ a', (s.bay (bayAt l a')).place ≠ none → a ≤ a') : (s.plannedAddrs l).head? = some a := by
  have first := find?_eq_some_of_least (p := fun _ => true) State.plannedAddrs_ascending ((s.mem_plannedAddrs a).2 planned) rfl
    fun x hx _ => lowest x ((s.mem_plannedAddrs x).1 hx)
  cases h : s.plannedAddrs l <;> simp_all

theorem State.nextPoll_above {a c : LaneAddr} (cursor : (s.lane l).cursor = some c) (planned : (s.bay (bayAt l a)).place ≠ none)
    (above : c < a) (least : ∀ a', (s.bay (bayAt l a')).place ≠ none → c < a' → a ≤ a') : s.nextPoll l = some a := by
  have first := find?_eq_some_of_least (p := fun x => decide (c < x)) State.plannedAddrs_ascending
    ((s.mem_plannedAddrs a).2 planned) (by simpa using above)
    fun x hx passes => least x ((s.mem_plannedAddrs x).1 hx) (by simpa using passes)
  simp only [State.nextPoll, cursor, first, Option.some_or]

theorem State.nextPoll_wraps {a : LaneAddr} (planned : (s.bay (bayAt l a)).place ≠ none)
    (nothing : ∀ c, (s.lane l).cursor = some c → ∀ a', (s.bay (bayAt l a')).place ≠ none → a' ≤ c)
    (lowest : ∀ a', (s.bay (bayAt l a')).place ≠ none → a ≤ a') : s.nextPoll l = some a := by
  have head := State.head_plannedAddrs planned lowest
  unfold State.nextPoll
  split
  · exact head
  · next c cursor =>
    have away : (s.plannedAddrs l).find? (fun x => decide (c < x)) = none :=
      List.find?_eq_none.2 fun x hx => by simpa using nothing c cursor x ((s.mem_plannedAddrs x).1 hx)
    dsimp only
    rw [away, head]
    rfl

theorem State.nextPoll_none (h : ∀ a, ¬(s.bay (bayAt l a)).place ≠ none) : s.nextPoll l = none := by
  have empty : s.plannedAddrs l = [] := List.eq_nil_iff_forall_not_mem.2 fun a ha => h a ((s.mem_plannedAddrs a).1 ha)
  unfold State.nextPoll
  rw [empty]
  split <;> rfl

/-! ### The choice of the next exchange (R159) -/

theorem putOnLine_append {p : Entry → Bool} {front back : List Entry} {e : Entry} (here : p e = true)
    (before : ∀ y ∈ front, p y = false) : putOnLine p (front ++ e :: back) = front ++ { e with onLine := true } :: back := by
  induction front with
  | nil => simp [putOnLine, here]
  | cons y front ih =>
    simp only [List.cons_append, putOnLine, before y List.mem_cons_self, Bool.false_eq_true, if_false]
    rw [ih fun z hz => before z (List.mem_cons_of_mem _ hz)]

theorem Entry.isDecrease_eq_false_iff (e : Entry) : e.isDecrease = false ↔ ∀ g, e.grant = some g → g.decrease = false := by
  unfold Entry.isDecrease
  cases e.grant <;> simp

/-- An order's turn: fewer than eight orders in a row, or no bay to poll. -/
theorem State.chooseNext_orderTurn (turn : (s.lane l).orderCount < 8 ∨ s.nextPoll l = none) :
    s.chooseNext l =
      match (s.lane l).queue.find? (·.isDecrease) with
      | some e => s.startOrder l (·.isDecrease) e
      | none =>
        match (s.lane l).queue with
        | e :: _ => s.startOrder l (fun _ => true) e
        | [] => s.pollOrIdle l := by
  have waits : ¬(Config.maxOrdersInARow ≤ (s.lane l).orderCount ∧ (s.nextPoll l).isSome = true) := by
    rintro ⟨full, polls⟩
    have full : 8 ≤ (s.lane l).orderCount := full
    rcases turn with turn | turn
    · omega
    · rw [turn] at polls
      cases polls
  unfold State.chooseNext
  dsimp only
  rw [if_neg waits] <;> rfl

theorem State.pollOrIdle_polls {a : LaneAddr} (h : s.nextPoll l = some a) : s.pollOrIdle l = s.startPoll l a := by
  simp only [State.pollOrIdle, h]

/-! ### The acknowledgement of an order (R133) -/

theorem State.modGrant_pending_none (h : (s.grant b).pending = none) :
    (s.modGrant b fun g => { g with pending := none }) = s := by
  have same : { s.grant b with pending := none } = s.grant b := by rw [← h]
  have grants : s.grants.set b.val (s.grant b) = s.grants := Vector.set_getElem_self _
  show { s with grants := s.grants.set b.val { s.grant b with pending := none } } = s
  rw [same, grants]

theorem State.settlePending_none (h : (s.grant b).pending = none) : s.settlePending b = s := by
  simp only [State.settlePending, h]

theorem State.settlePending_some {v : GrantValue} (h : (s.grant b).pending = some v) :
    s.settlePending b =
      if v.value < (s.grant b).acknowledged then
        (s.modGrant b fun g => { g with pending := none }).handGrant b v.value v.flag
      else if v.value = (s.grant b).acknowledged then
        if v.flag = .start then (s.modGrant b fun g => { g with pending := none }).handGrant b v.value v.flag
        else s.modGrant b fun g => { g with pending := none }
      else if (s.modGrant b fun g => { g with pending := none }).gateOpenOf b then
        (s.modGrant b fun g => { g with pending := none }).handGrant b v.value v.flag
      else (s.modGrant b fun g => { g with pending := none }).modGrant b fun g => { g with heldBack := some v } := by
  simp only [State.settlePending, h]

/-! ### The hand-out of the leftover (R125) -/

/-- A feeder below its want. -/
def belowWant (x : Nat × Nat) : Bool := decide (x.2 < x.1)

/-- What a round gives the feeder at each place. -/
theorem handOutRound_getElem? (left k : Nat) (xs : List (Nat × Nat)) :
    (handOutRound left xs).1[k]? = xs[k]?.map fun x =>
      (x.1, x.2 + if x.2 < x.1 ∧ (xs.take k).countP belowWant < left then 1 else 0) := by
  induction xs generalizing left k with
  | nil => simp [handOutRound]
  | cons x xs ih =>
    obtain ⟨w, a⟩ := x
    by_cases paid : 0 < left ∧ a < w
    · obtain ⟨some_left, below⟩ := paid
      simp only [handOutRound, some_left, below, and_self, if_true]
      cases k with
      | zero => simp [some_left, below]
      | succ k =>
        have one_less : (xs.take k).countP belowWant < left - 1 ↔ (xs.take k).countP belowWant + 1 < left := by omega
        simp [ih, belowWant, below, one_less]
    · simp only [handOutRound, paid, if_false]
      cases k with
      | zero =>
        have : ¬(a < w ∧ 0 < left) := fun h => paid h.symm
        simp [this]
      | succ k =>
        simp only [List.getElem?_cons_succ, ih, List.take_succ_cons, List.countP_cons]
        refine congrArg (Option.map · xs[k]?) (funext fun x => ?_)
        rcases Nat.eq_zero_or_pos left with rfl | some_left
        · simp
        · have closed : belowWant (w, a) = false := by
            simpa [belowWant] using fun h => paid ⟨some_left, h⟩
          simp [closed]

/-- What a round leaves. -/
theorem handOutRound_snd (left : Nat) (xs : List (Nat × Nat)) : (handOutRound left xs).2 = left - xs.countP belowWant := by
  induction xs generalizing left with
  | nil => simp [handOutRound]
  | cons x xs ih =>
    obtain ⟨w, a⟩ := x
    by_cases paid : 0 < left ∧ a < w
    · simp only [handOutRound, paid, and_self, if_true, ih, List.countP_cons, belowWant, decide_true]
      omega
    · simp only [handOutRound, paid, if_false, ih, List.countP_cons, belowWant, decide_eq_true_eq]
      split <;> omega

theorem length_handOutRound (left : Nat) (xs : List (Nat × Nat)) : (handOutRound left xs).1.length = xs.length := by
  induction xs generalizing left with
  | nil => rfl
  | cons x xs ih =>
    obtain ⟨w, a⟩ := x
    by_cases paid : 0 < left ∧ a < w <;> simp [handOutRound, paid, ih]

theorem handOutRound_sum (left : Nat) (xs : List (Nat × Nat)) :
    ((handOutRound left xs).1.map (·.2)).sum + (handOutRound left xs).2 = (xs.map (·.2)).sum + left := by
  induction xs generalizing left with
  | nil => simp [handOutRound]
  | cons x xs ih =>
    obtain ⟨w, a⟩ := x
    by_cases paid : 0 < left ∧ a < w
    · have := ih (left - 1)
      simp only [handOutRound, paid, and_self, if_true, List.map_cons, List.sum_cons]
      omega
    · have := ih left
      simp only [handOutRound, paid, if_false, List.map_cons, List.sum_cons]
      omega

/-- One round is all where the leftover is no more than the feeders below their wants. -/
theorem handOut_eq (left : Nat) (xs : List (Nat × Nat)) (enough : left ≤ xs.countP belowWant) :
    handOut left left xs = (handOutRound left xs).1 := by
  have spent (fuel : Nat) (ys : List (Nat × Nat)) : handOut fuel 0 ys = ys := by
    cases fuel <;> simp [handOut]
  cases left with
  | zero =>
    refine List.ext_getElem? fun k => ?_
    simp [handOut, handOutRound_getElem?]
  | succ left =>
    have some_below : (xs.any fun (w, a) => decide (a < w)) = true := by
      obtain ⟨x, hx, below⟩ := List.countP_pos_iff.1 (Nat.lt_of_lt_of_le (Nat.succ_pos left) enough)
      exact List.any_eq_true.2 ⟨x, hx, below⟩
    have kept : (handOutRound (left + 1) xs).2 = 0 := by rw [handOutRound_snd]; omega
    unfold handOut
    rw [if_pos ⟨Nat.succ_pos left, some_below⟩]
    dsimp only
    rw [kept, spent]

/-- The parts rounded down miss less than one unit for each feeder that wants any. -/
theorem sum_parts_add_count (e total : Nat) (wants : List Nat) (positive : 0 < total) :
    wants.sum * e ≤ ((wants.map fun w => w * e / total).sum + wants.countP fun w => decide (0 < w)) * total := by
  induction wants with
  | nil => simp
  | cons w wants ih =>
    have part : w * e ≤ (w * e / total + if 0 < w then 1 else 0) * total := by
      split
      · have := Nat.lt_div_mul_add (a := w * e) positive
        rw [Nat.add_mul]
        omega
      · next zero =>
        have : w = 0 := by omega
        simp [this]
    simp only [List.sum_cons, List.map_cons, List.countP_cons, decide_eq_true_eq]
    calc (w + wants.sum) * e = w * e + wants.sum * e := Nat.add_mul _ _ _
      _ ≤ _ := Nat.add_le_add part ih
      _ = _ := by ring

theorem sum_parts_le (e total : Nat) (wants : List Nat) :
    (wants.map fun w => w * e / total).sum * total ≤ wants.sum * e := by
  induction wants with
  | nil => simp
  | cons w wants ih =>
    simp only [List.map_cons, List.sum_cons, Nat.add_mul]
    exact Nat.add_le_add (Nat.div_mul_le_self _ _) ih

end Sys2Proof.Machine

open Sys2Proof Sys2Proof.Machine

/-- Settles O42: by the queue's two operations. -/
theorem ordersJoinAndMerge : Obligations.OrdersJoinAndMerge := by
  refine ⟨fun b q => ?_, fun s b flash => ?_, fun before s => ?_, fun s b st => ?_⟩
  · intro queued
    have merges (e : Entry) : e.mergesAt b = true ↔ queued e ∧ e.grant = none := by
      simp [Entry.mergesAt, queued, and_assoc, and_comm]
    refine ⟨fun o h => queueGrant_plain o fun e he => ?_, fun o front e back split here only others => ?_,
      fun flash h => queueAspect_joins flash h, fun flash front e back split here before => ?_⟩
    · rw [← Bool.not_eq_true, merges]
      exact fun ⟨hq, hn⟩ => h e he hq hn
    · rw [split]
      refine queueGrant_merges o ((merges e).2 ⟨here, only⟩) fun y hy => ?_
      rw [← Bool.not_eq_true, merges]
      exact fun ⟨hq, hn⟩ => others y hy hq hn
    · rw [split]
      exact queueAspect_merges flash here before
  · intro l
    refine ⟨fun h => if_pos ?_, fun h => if_neg ?_⟩ <;> rcases h with h | h <;> rw [h] <;> decide
  · rw [finRange_bays]
    refine foldl_if_eq_foldl_filter (fun t => t.bays = s.bays) _ _ _ (fun t b h => ?_) (fun t b h => ?_) allBays rfl
    · simp only [State.bay, h]
    · rw [State.aspectOrder_eq]
      exact h
  · cases st <;> rfl

/-- Settles O54: by the turn, the first decrease, the first entry and the poll cycle. -/
theorem aLaneChoosesItsNextExchange : Obligations.ALaneChoosesItsNextExchange := by
  intro s l x planned timeout next polls orders orderTurn
  have poll (a : LaneAddr) (h : next a) : s.nextPoll l = some a := by
    obtain ⟨hp, ⟨c, cursor, above, least⟩ | ⟨nothing, lowest⟩⟩ := h
    · exact State.nextPoll_above cursor hp above least
    · exact State.nextPoll_wraps hp nothing lowest
  have starts (a : LaneAddr) : s.startPoll l a = polls a := by
    simp only [State.startPoll, exchangeFrame, addrOf_bayAt]
    rfl
  have turn (h : orderTurn) : (s.lane l).orderCount < 8 ∨ s.nextPoll l = none := h.imp_right State.nextPoll_none
  have puts (p : Entry → Bool) (front back : List Entry) (e : Entry) (queue : x.queue = front ++ e :: back) (here : p e = true)
      (before : ∀ y ∈ front, p y = false) : s.startOrder l p e = orders front e back (s.orderContent e) := by
    have line : putOnLine p s.lanes[l.val].queue = front ++ { e with onLine := true } :: back := by
      rw [show s.lanes[l.val].queue = front ++ e :: back from queue, putOnLine_append here before]
    unfold State.startOrder State.modLane
    dsimp only
    rw [line]
    rfl
  refine ⟨fun a full h => ?_, fun front e back g h queue grant decrease before => ?_, fun e back h queue calm => ?_,
    fun a few empty h => ?_, fun empty h => ?_⟩
  · have due : Config.maxOrdersInARow ≤ (s.lane l).orderCount ∧ (s.nextPoll l).isSome = true := ⟨full, by rw [poll a h]; rfl⟩
    unfold State.chooseNext
    dsimp only
    rw [if_pos due, State.pollOrIdle_polls (poll a h), starts]
  · have here : e.isDecrease = true := by simp only [Entry.isDecrease, grant, decrease]
    have ahead (y : Entry) (hy : y ∈ front) : y.isDecrease = false := y.isDecrease_eq_false_iff.2 (before y hy)
    have first : (s.lane l).queue.find? (·.isDecrease) = some e := by
      rw [show (s.lane l).queue = front ++ e :: back from queue, List.find?_append,
        List.find?_eq_none.2 fun y hy => by simp [ahead y hy]]
      simp [here]
    rw [State.chooseNext_orderTurn (turn h), first]
    dsimp only
    rw [puts _ front back e queue here ahead]
    simp only [State.orderContent, grant]
  · have noDecrease : (s.lane l).queue.find? (·.isDecrease) = none :=
      List.find?_eq_none.2 fun y hy => by simp [y.isDecrease_eq_false_iff.2 (calm y hy)]
    have chosen : s.chooseNext l = orders [] e back (s.orderContent e) := by
      rw [State.chooseNext_orderTurn (turn h), noDecrease, show (s.lane l).queue = e :: back from queue]
      exact puts (fun _ => true) [] back e queue rfl (by simp)
    refine ⟨fun g grant => ?_, fun grant => ?_⟩ <;> rw [chosen] <;> simp only [State.orderContent, grant] <;> rfl
  · have empty' : (s.lane l).queue = [] := empty
    rw [State.chooseNext_orderTurn (.inl few), empty']
    exact (State.pollOrIdle_polls (poll a h)).trans (starts a)
  · have empty' : (s.lane l).queue = [] := empty
    have chosen : s.chooseNext l = s.pollOrIdle l := by
      rw [State.chooseNext_orderTurn (.inr (State.nextPoll_none h)), empty']
      rfl
    rw [chosen]
    simp only [State.pollOrIdle, State.nextPoll_none h]
    rfl

/-- Settles O52: by whether the bay is removed, the entry a grant order's, and what is pending. -/
theorem anAckSettlesTheOrder : Obligations.AnAckSettlesTheOrder := by
  intro s l frame x o line order good b freed heard
  have ends (t : State) (bays : t.bays = s.bays) (h : s.takeEnd l x frame = t) :
      exec (.ack l frame) s = .next (t.chooseNext l) := by
    show Host.Outcome.next (s.endExchange l frame) = _
    simp only [State.endExchange, line, h, aspectOrders_bays bays]
  have taken (here : x.removed = false) : s.takeEnd l x frame = freed.orderEndsGood x o := by
    simp only [State.takeEnd, here, Bool.false_eq_true, if_false, good, order]
    rfl
  refine ⟨fun gone => ends freed rfl ?_, fun here noGrant => ends heard rfl ?_, fun g here isGrant kept outstanding => ?_⟩
  · simp only [State.takeEnd, gone, if_true]
    rfl
  · have plain : (o.isGrant && !x.dropped) = false := by
      rcases noGrant with h | h <;> simp [h]
    rw [taken here]
    simp only [State.orderEndsGood, plain, Bool.false_eq_true, if_false]
    rfl
  · intro acked settled
    have settles : acked.Orders settled := by
      simp only [settled]
      split
      · exact .refl _
      · split
        · exact (State.Orders.refl _).handGrant _ _ _
        · split
          · split
            · exact (State.Orders.refl _).handGrant _ _ _
            · exact .refl _
          · split
            · exact (State.Orders.refl _).handGrant _ _ _
            · exact (State.Orders.refl _).modGrant _ _ fun _ => ⟨rfl, rfl, rfl, rfl, rfl⟩
    refine ends _ (settles.testGateOf b).bays ?_
    rw [taken here]
    have due : (heard.grant b).outstanding = some g := outstanding
    have event : freed.orderEndsGood x o = heard.acknowledge b := by
      simp only [State.orderEndsGood, isGrant, kept, Bool.not_false, Bool.and_self, if_true]
      rfl
    rw [event]
    simp only [State.acknowledge, due]
    refine congrArg (State.testGateOf · b) ?_
    have acknowledged : (heard.modGrant b fun y =>
        { y with
          acknowledged := g.value, outstanding := none
          zeroAcked := y.zeroAcked || (g.value == 0 && decide (0 < y.stranded)) }).modGrant b
          (fun y => { y with pending := none }) = acked := by
      apply State.ext <;> simp [acked, heard, freed, State.modGrant, State.grant]
      by_cases zero : g.value = 0 <;> simp [zero, beq_eq_decide]
    cases pending : (s.grant b).pending with
    | none =>
      have settled_eq : settled = acked := by simp only [settled, pending]
      rw [settled_eq, ← acknowledged, State.settlePending_none (by rw [State.grant_modGrant_self]; exact pending)]
      exact (State.modGrant_pending_none (by rw [State.grant_modGrant_self]; exact pending)).symm
    | some v =>
      have settled_eq : settled =
          if v.value < g.value then acked.handGrant b v.value v.flag
          else if v.value = g.value then (if v.flag = OrderFlag.start then acked.handGrant b v.value v.flag else acked)
          else if acked.gateOpenOf b then acked.handGrant b v.value v.flag
          else acked.modGrant b fun y => { y with heldBack := some v } := by simp only [settled, pending]
      rw [settled_eq, ← acknowledged, State.settlePending_some (v := v) (by rw [State.grant_modGrant_self]; exact pending),
        State.grant_modGrant_self]

/-- Settles O44: one round hands the leftover out, since the parts miss less than a unit for each feeder that wants any. -/
theorem budgetsShareTheSiteExactly : Obligations.BudgetsShareTheSiteExactly := by
  intro e wants
  refine ⟨rfl, fun fits => if_pos fits, fun short => ?_⟩
  intro part leftover
  have positive : 0 < wants.sum := by omega
  let first := wants.map fun w => (w, part w)
  have parts : first.map (·.2) = wants.map part := by simp [first, Function.comp_def]
  have below (w : Nat) : part w < w ↔ 0 < w := by
    refine ⟨fun h => by omega, fun h => ?_⟩
    exact (Nat.div_lt_iff_lt_mul positive).2 (Nat.mul_lt_mul_of_pos_left short h)
  have open_eq : belowWant ∘ (fun w => (w, part w)) = fun w => decide (0 < w) := by
    funext w
    simp [belowWant, below]
  have count (k : Nat) : (first.take k).countP belowWant = (wants.take k).countP fun w => decide (0 < w) := by
    simp only [first, ← List.map_take, List.countP_map, open_eq]
  have enough : leftover ≤ first.countP belowWant := by
    have least := sum_parts_add_count e wants.sum wants positive
    have bound : e ≤ (wants.map part).sum + wants.countP fun w => decide (0 < w) :=
      Nat.le_of_mul_le_mul_right ((Nat.mul_comm e _).trans_le least) positive
    simp only [first, List.countP_map, open_eq, leftover]
    exact Nat.sub_le_of_le_add (Nat.add_comm _ _ ▸ bound)
  have within : (wants.map part).sum ≤ e := by
    have := sum_parts_le e wants.sum wants
    exact Nat.le_of_mul_le_mul_right (this.trans_eq (Nat.mul_comm _ e)) positive
  have shared : shareBudget .pooled e wants = (handOutRound leftover first).1.map (·.2) := by
    have once := handOut_eq leftover first enough
    simp only [shareBudget, if_neg (Nat.not_le.2 short)]
    have same : e - ((wants.map fun w => (w, w * e / wants.sum)).map (·.2)).sum = leftover := by
      rw [show wants.map (fun w => (w, w * e / wants.sum)) = first from rfl, parts]
    rw [same, show wants.map (fun w => (w, w * e / wants.sum)) = first from rfl, once]
  have at_ (k : Nat) : (shareBudget .pooled e wants)[k]? = wants[k]?.map fun w =>
      part w + if 0 < w ∧ (wants.take k).countP (fun x => decide (0 < x)) < leftover then 1 else 0 := by
    simp [shared, handOutRound_getElem?, count, first, Function.comp_def, below]
  refine ⟨?_, ?_, fun k w hw => ⟨_, by rw [at_, hw]; rfl, ?_, rfl⟩⟩
  · have sum := handOutRound_sum leftover first
    rw [handOutRound_snd, parts] at sum
    rw [shared]
    omega
  · rw [shared, List.length_map, length_handOutRound, List.length_map]
  · rcases Nat.eq_zero_or_pos w with rfl | some_want
    · simp [part]
    · have := (below w).2 some_want
      split <;> omega

end

section
/-! SUPPORT. A report's stages 1, 2 and 8 (R25 to R31, R136, R137, R167 to R169): faults, arrivals and departures, the verify and the
returning unit. -/

-- One proof after another: side by side, the package as one text takes a thread and its stack for each.
set_option Elab.async false

namespace Sys2Proof.Machine

variable {s : State} {i : SlotNo} {b : BayNo} {r : Reservation} {p : BayPlan} {plan : Plan}

/-! ### Faults (R25, R26, R27) -/

theorem BayState.inService_iff (x : BayState) : x.inService = true ↔ x ≠ .unplanned ∧ x ≠ .outOfService := by
  cases x <;> simp [BayState.inService]

theorem Report.postFault_iff (r : Report) : r.postFault = true ↔ r.fault ≠ 0 ∨ r.plug = .postFault := by
  simp [Report.postFault]

theorem Report.detectorFault_iff (r : Report) :
    r.detectorFault = true ↔ ¬(r.fault ≠ 0 ∨ r.plug = .postFault) ∧ r.occupancy = .detectorFault := by
  rw [← r.postFault_iff]
  simp [Report.detectorFault]

theorem State.rehomeHeldAt_held (hb : (s.bay b).bound = some i) (hr : s.record i = some r) (st : r.state = .held) :
    s.rehomeHeldAt b = s.rehome i := by
  simp only [State.rehomeHeldAt, hb, hr, st, if_true]

theorem State.rehomeHeldAt_other (h : ∀ i r, (s.bay b).bound = some i → s.record i = some r → r.state ≠ .held) :
    s.rehomeHeldAt b = s := by
  unfold State.rehomeHeldAt
  split
  · rfl
  · next i hb =>
    split
    · next r hr => exact if_neg (h i r hb hr)
    · rfl

theorem State.leaveService_eq (s : State) (b : BayNo) (reason : Reason) :
    s.leaveService b reason =
      ((((s.takeOut b reason).dropDeadline (.bay b)).rehomeHeldAt b).modBay b fun x => { x with keptHold := false }).raise .bayAlert :=
  rfl

theorem State.strand_planned (hp : (s.bay b).place = some p) (v : Nat) :
    s.strand b v = { s with
      grants := s.grants.set b.val
        { s.grant b with stranded := max (s.grant b).stranded v, zeroAcked := false }
      feeders := s.feeders.set p.feeder.val
        { s.feeder p.feeder with
          stranded := (s.feeder p.feeder).stranded + (max (s.grant b).stranded v - (s.grant b).stranded) } } := by
  unfold State.strand
  exact (State.modFeederOf_planned (s := s.modGrant b _) (p := p) hp _).trans rfl

theorem State.makeFaulty_inService (h : (s.bay b).state.inService = true) (v : Nat) :
    s.makeFaulty b v = ((s.leaveService b .postFault).endSession b false true).strand b v := if_pos h

theorem State.makeFaulty_out (h : (s.bay b).state = .outOfService) (v : Nat) :
    s.makeFaulty b v = ((s.changeReason b .postFault).endSession b false true).strand b v :=
  if_neg (by rw [h]; decide)

theorem State.postFaultAt_inService (h : (s.bay b).state.inService = true) (v : Nat) :
    s.postFaultAt b v = ((s.makeFaulty b (max (s.grant b).acknowledged v)).testGateOf b, true) := by
  unfold State.postFaultAt
  cases st : (s.bay b).state <;> simp_all [BayState.inService]

theorem State.detectorFaultAt_inService (h : (s.bay b).state.inService = true) :
    s.detectorFaultAt b = s.leaveService b .detectorFault := by
  unfold State.detectorFaultAt
  cases st : (s.bay b).state <;> simp_all [BayState.inService]

/-! ### Arrivals and departures (R28 to R31) -/

theorem State.identifyTime_plan (h : s.plan = some plan) : s.identifyTime = plan.site.identifyTime := by simp [State.identifyTime, h]

/-- An arrival at a bay neither FREE nor HELD is stored (R28). -/
theorem State.arrive_elsewhere (h : (s.bay b).state ≠ .free ∧ (s.bay b).state ≠ .held) :
    s.arrive b = s.modBay b fun x => { x with occupancy := .occupied } := by
  unfold State.arrive
  cases st : (s.bay b).state <;> simp_all

/-- The outcome of a record whose vehicle leaves (R29). -/
theorem departureOutcome_eq (st : r.state = .engaged ∨ r.state = .overstay) :
    departureOutcome r =
      some (if r.state = .overstay then .overstayed else if r.sessionDone then .completed else .leftUncharged) := by
  rcases st with st | st <;> simp [departureOutcome, st]

theorem State.retireDeparted_leaves (hb : (s.bay b).bound = some i) (hr : s.record i = some r)
    (st : r.state = .engaged ∨ r.state = .overstay) :
    s.retireDeparted b =
      s.retire i (if r.state = .overstay then .overstayed else if r.sessionDone then .completed else .leftUncharged) := by
  simp only [State.retireDeparted, hb, hr, Option.bind_some, departureOutcome_eq st]

theorem State.retireDeparted_unbound (hb : (s.bay b).bound = none) : s.retireDeparted b = s := by
  simp only [State.retireDeparted, hb]

end Sys2Proof.Machine

open Sys2Proof Sys2Proof.Machine

/-- Settles O30: a bay that leaves service, a stranded grant set, and stage 1 by the bay's state and reason. -/
theorem faultsTakeTheBayOut : Obligations.FaultsTakeTheBayOut := by
  intro s b p hp x
  refine ⟨fun reason => ?_, fun v => State.strand_planned hp v, fun r => ?_⟩
  · intro out alerted
    have taken : (s.takeOut b reason).dropDeadline (.bay b) = out := rfl
    have bound : (out.bay b).bound = x.bound := by simp [out, State.bay]
    have records (i : SlotNo) : out.record i = s.record i := rfl
    refine ⟨fun i r hb hr held => ?_, fun other => ?_, rfl⟩
    · rw [State.leaveService_eq, taken, State.rehomeHeldAt_held (bound.trans hb) ((records i).trans hr) held]
      rfl
    · rw [State.leaveService_eq, taken, State.rehomeHeldAt_other fun i r hb hr => other i r (bound.symm.trans hb) hr]
      rfl
  · intro v postFault detectorFault inService outFor
    have post (h : postFault) : s.stage1 b r = s.postFaultAt b r.inForce := if_pos (r.postFault_iff.2 h)
    have noPost (h : ¬postFault) : ¬r.postFault = true := fun e => h (r.postFault_iff.1 e)
    have detector (h : detectorFault) : s.stage1 b r = (s.detectorFaultAt b, false) := by
      rw [State.stage1, if_neg (noPost h.1), if_pos (r.detectorFault_iff.2 h)]
    have serves (h : inService) : (s.bay b).state.inService = true := (BayState.inService_iff _).2 h
    refine ⟨fun h at_ => ?_, fun h at_ => ?_, fun h at_ => ?_, fun h at_ => ?_, fun h at_ => ?_, fun h at_ => ?_, fun h ok => ?_⟩
    · rw [post h, State.postFaultAt_inService (serves at_), State.makeFaulty_inService (serves at_)]
    · obtain ⟨out, reason, listed, here⟩ := at_
      rw [post h, ← State.makeFaulty_out out]
      simp only [List.mem_cons, List.not_mem_nil, or_false] at listed
      rcases listed with rfl | rfl | rfl <;>
        simp only [State.postFaultAt, show (s.bay b).state = .outOfService from out, show (s.bay b).reason = _ from here] <;> rfl
    · obtain ⟨out, reason, listed, here⟩ := at_
      rw [post h]
      simp only [List.mem_cons, List.not_mem_nil, or_false] at listed
      rcases listed with rfl | rfl <;>
        simp only [State.postFaultAt, show (s.bay b).state = .outOfService from out, show (s.bay b).reason = _ from here] <;> rfl
    · rw [detector h, State.detectorFaultAt_inService (serves at_)]
    · obtain ⟨out, reason, listed, here⟩ := at_
      rw [detector h]
      simp only [List.mem_cons, List.not_mem_nil, or_false] at listed
      rcases listed with rfl | rfl <;>
        simp only [State.detectorFaultAt, show (s.bay b).state = .outOfService from out, show (s.bay b).reason = _ from here]
    · obtain ⟨out, reason, listed, here⟩ := at_
      rw [detector h]
      simp only [List.mem_cons, List.not_mem_nil, or_false] at listed
      rcases listed with rfl | rfl | rfl <;>
        simp only [State.detectorFaultAt, show (s.bay b).state = .outOfService from out, show (s.bay b).reason = _ from here]
    · rw [State.stage1, if_neg (noPost h), if_neg fun e => ok (r.detectorFault_iff.1 e).2]

/-- Settles O49: stage 2 by the two occupancies, then by the bay's state. -/
theorem occupancyMovesTheBay : Obligations.OccupancyMovesTheBay := by
  intro s b r plan hplan x arrives departs here identifying left outcome
  have arrival (h : arrives) : s.stage2 b r = (s.modBay b fun x => { x with occupancyHeld := false }).arrive b := by
    simp only [State.stage2, h.1, show (s.bay b).occupancy = .empty from h.2]
  have departure (h : departs) : s.stage2 b r = s.depart b := by
    simp only [State.stage2, h.1, show (s.bay b).occupancy = .occupied from h.2.1, show (s.bay b).plug = .unplugged from h.2.2,
      if_true]
  have gone : (s.modBay b fun x => { x with occupancy := .empty, credential := none, occupancyHeld := false }).dropDeadline
      (.bay b) = left := rfl
  have bound : (left.bay b).bound = x.bound := by simp [left, State.bay]
  have time : s.identifyTime = plan.site.identifyTime := State.identifyTime_plan hplan
  refine ⟨fun h free => ?_, fun i h held hb => ?_, fun occ other => ?_, fun h st => ?_, fun i y h hb hr st => ?_,
    fun i y h st kept hb hr => ?_, fun i y h out hb hr st => ?_, fun h out unbound => ?_, fun emp occ plug => ?_,
    fun emp occ => ?_, fun fault => ?_⟩
  · rw [arrival h]
    simp only [State.arrive, State.bay_modBay_self, show (s.bay b).state = .free from free]
    apply State.ext <;>
      simp [State.startIdentifying, State.enter, State.modBay, State.bay, Bay.enter, BayState.aspect, here, x, identifying,
        State.startDeadline, State.setDeadline, State.dueIn, satAdd, Config.max32, State.identifyTime, hplan]
  · rw [arrival h]
    simp only [State.arrive, State.bay_modBay_self, show (s.bay b).state = .held from held, show (s.bay b).bound = some i from hb]
    apply State.ext <;>
      simp [State.startIdentifying, State.enter, State.modBay, State.bay, Bay.enter, BayState.aspect, here, x, identifying,
        State.startDeadline, State.setDeadline, State.dueIn, satAdd, Config.max32, State.identifyTime, hplan, State.dropDeadline]
  · cases was : (s.bay b).occupancy with
    | occupied =>
      have same : here = { x with occupancyHeld := false } := by simp only [here, x, ← was]
      simp only [State.stage2, occ, was, same]
      rfl
    | empty =>
      have away : x.state ≠ .free ∧ x.state ≠ .held := other.resolve_left (by simp [x, was])
      rw [arrival ⟨occ, was⟩, State.arrive_elsewhere (by simpa using away)]
      simp [State.modBay, here, x, State.bay]
  · rw [departure h]
    rcases st with st | ⟨st, kept⟩
    · simp only [State.depart, show (s.bay b).state = .blocked from st, gone]
      rfl
    · simp only [State.depart, show (s.bay b).state = .identifying from st, show (s.bay b).keptHold = false from kept, gone,
        Bool.false_eq_true, if_false]
      rfl
  · rw [departure h]
    have leaves : left.retireDeparted b = left.retire i (outcome y) :=
      State.retireDeparted_leaves (bound.trans hb) hr (st.imp (·.2) (·.2))
    rcases st with ⟨st, -⟩ | ⟨st, -⟩ <;>
      simp only [State.depart, show (s.bay b).state = _ from st, gone, leaves] <;> rfl
  · rw [departure h]
    simp only [State.depart, show (s.bay b).state = .identifying from st, show (s.bay b).keptHold = true from kept, gone, if_true]
    have record : left.record i = some y := hr
    simp only [State.restoreHold, bound.trans hb, record]
    apply State.ext <;>
      simp [left, State.enter, State.modBay, State.bay, Bay.enter, BayState.aspect, x, State.startDeadline, State.setDeadline,
        State.dueIn, satAdd, Config.max32]
  · rw [departure h]
    have leaves : left.retireDeparted b = left.retire i (outcome y) := State.retireDeparted_leaves (bound.trans hb) hr st
    simp only [State.depart, show (s.bay b).state = _ from out, gone, leaves]
  · rw [departure h]
    simp only [State.depart, show (s.bay b).state = _ from out, gone, State.retireDeparted_unbound (bound.trans unbound)]
  · have plug : ¬(s.bay b).plug = .unplugged := plug
    simp only [State.stage2, emp, show (s.bay b).occupancy = .occupied from occ, plug, if_false]
    rfl
  · simp only [State.stage2, emp, show (s.bay b).occupancy = .empty from occ]
  · simp only [State.stage2, fault]

/-- Settles O37: the verify by its conditions, the returning unit, and the aspect compared. -/
theorem stageEightVerifiesAndReturns : Obligations.StageEightVerifiesAndReturns := by
  intro s b r g x u counts faulty compared differs
  have unfaulty (h : compared) : ¬((s.bay b).state = .outOfService ∧ (s.bay b).reason = some .postFault) := h.1
  have idle (h : compared) : ¬(s.grant b).outstanding.isSome = true := by
    rw [show (s.grant b).outstanding = none from h.2]
    decide
  have mismatches (h : differs) : s.verify b r.inForce =
      if u.mismatch + 1 < 2 then (counts s (u.mismatch + 1) u.resends, false)
      else if u.resends < 4 then (s.resend b, false) else (s.judgeFaulty b r.inForce, true) := by
    rw [State.verify, if_neg (unfaulty h.1), if_neg (idle h.1), if_neg h.2]
    rfl
  refine ⟨rfl, fun h => if_pos h, fun h busy => ?_, fun h same => ?_, fun h once => ?_, fun h twice few => ?_,
    fun h twice many planned => ?_, fun p hp => ?_, ?_⟩
  · rw [State.verify, if_neg h, if_pos (Option.isSome_iff_ne_none.2 busy)]
    rfl
  · rw [State.verify, if_neg (unfaulty h), if_neg (idle h), if_pos same]
    rfl
  · rw [mismatches h, if_pos (by omega), once]
  · intro runs flag plain stop o l
    have chosen : (if s.charging b then OrderFlag.plain else .stop) = flag := by
      cases running : s.charging b with
      | true => exact (plain ((State.charging_iff b).1 running)).symm
      | false =>
        refine (stop fun h => ?_).symm
        rw [(State.charging_iff b).2 h] at running
        cases running
    have unstarted : decide (flag = .start) = false := by
      rw [← chosen]
      split <;> rfl
    have committed : (s.grant b).committed = g.acknowledged := by
      simp [Grants.committed, show (s.grant b).outstanding = none from h.1.2, g]
    rw [mismatches h, if_neg (by omega), if_pos few]
    refine congrArg (·, false) ?_
    unfold State.resend
    rw [chosen, State.handGrant_eq, committed, unstarted]
    simp [counts, o, l, g, u, State.modUnit, State.unit]
  · intro out stranded
    have faulted : s.makeFaulty b (max g.acknowledged r.inForce) = stranded := by
      by_cases away : x.state = .outOfService
      · rw [State.makeFaulty_out away]
        simp only [stranded, out, if_pos away]
      · rw [State.makeFaulty_inService ((BayState.inService_iff _).2 ⟨planned, away⟩)]
        simp only [stranded, out, if_neg away]
    rw [mismatches h, if_neg (by omega), if_neg (by omega), State.judgeFaulty, faulted]
    rfl
  · intro clears
    refine ⟨fun h => ?_, fun h => if_neg h⟩
    rw [State.returningUnit]
    dsimp only
    rw [if_pos h]
    refine congrArg (·, true) ?_
    unfold State.clearStrandedGrant
    exact (State.modFeederOf_planned (s := s.modGrant b _) (p := p) hp _).trans rfl
  · intro busy
    have busy_iff : (((s.lane (laneOf b)).queue.any fun e => e.bay == b) ||
        (match (s.lane (laneOf b)).line with | some y => y.bay == b | none => false)) = true ↔ busy := by
      rw [Bool.or_eq_true]
      refine or_congr (by simp) ?_
      cases (s.lane (laneOf b)).line <;> simp
    unfold State.compareAspect
    dsimp only
    refine ⟨fun h => if_pos ?_, fun quiet other => if_neg ?_⟩
    · rw [Bool.or_eq_true, beq_iff_eq]
      exact h.imp_left busy_iff.2
    · rw [Bool.or_eq_true, beq_iff_eq]
      exact fun h => h.elim (fun h => quiet (busy_iff.1 h)) other

end

section
/-! SUPPORT. A good report from the line to the lane's next exchange (R24, R32, R36, R39, R165, R166): its stages, what a report that
brings nothing new leaves, and re-derivation. -/

-- One proof after another: side by side, the package as one text takes a thread and its stack for each.
set_option Elab.async false

namespace Sys2Proof.Machine

variable {s : State} {i : SlotNo} {b : BayNo} {l : LaneNo} {r : Report} {y : Reservation} {p : BayPlan} {plan : Plan}

/-! ### The end of a POLL (R161, R165, R166) -/

/-- A good report on a line is taken by its bay, then the aspect orders go out and the lane chooses. -/
theorem State.report_good {frame : List Byte} {x : Exchange} (line : (s.lane l).line = some x) (poll : x.order = none)
    (here : x.removed = false) (good : judgeReply x frame = none) :
    exec (.report l frame) s =
      .next ((State.aspectOrders s ((s.freeLine l false).pollEndsGood x.bay (readReport ((frame.drop 2).take 17)))).chooseNext l) := by
  show Host.Outcome.next (s.endExchange l frame) = _
  simp only [State.endExchange, line, State.takeEnd, here, Bool.false_eq_true, if_false, good, poll]

theorem LinkState.reachable_iff (x : LinkState) : x.reachable = true ↔ x = .active ∨ x = .silent := by
  cases x <;> simp [LinkState.reachable]

theorem State.pollEndsGood_reachable (h : (s.unit b).link = .active ∨ (s.unit b).link = .silent) :
    s.pollEndsGood b r = (s.modUnit b (·.good)).takeReport false b r :=
  if_pos ((LinkState.reachable_iff _).2 h)

theorem State.pollEndsGood_first (h : (s.unit b).link = .unheard ∨ (s.unit b).link = .lost) :
    s.pollEndsGood b r = ((s.modUnit b fun u => u.good.clearVerify).handGrant b 0 .stop).takeReport true b r :=
  if_neg (by rcases h with h | h <;> rw [h] <;> decide)

theorem Bay.rederives_iff (x : Bay) (first : Bool) : x.rederives first = true ↔
    x.state = .outOfService ∧
      (x.returnRequested = true ∨ first = true ∧ (x.reason = some .unheard ∨ x.reason = some .linkLost)) := by
  simp [Bay.rederives]

theorem State.takeReport_stages {first : Bool} (h : ¬(s.bay b).rederives first = true) :
    s.takeReport first b r = ((takeRun (s.stages1to6 b r)).stage7 b r).stage8 b r := by
  rw [State.takeReport, if_neg h]

theorem State.takeReport_rederives {first : Bool} (h : (s.bay b).rederives first = true) :
    s.takeReport first b r = ((takeRun (s.rederive first b r)).stage7 b r).stage8 b r := by
  rw [State.takeReport, if_pos h]

/-! ### Stages 3, 6 and 7 (R32, R36, R143) -/

theorem State.freshCredential_eq_some {c : Credential} (h : r.cred = some c) (ok : r.occupancy ≠ .detectorFault)
    (occ : (s.bay b).occupancy = .occupied) (fresh : (s.bay b).credential ≠ some c) : s.freshCredential b r = some c := by
  simp only [State.freshCredential, h]
  exact if_pos ⟨ok, occ, fresh⟩

theorem State.freshCredential_eq_none (h : r.cred = none ∨ r.cred = (s.bay b).credential ∨ (s.bay b).occupancy ≠ .occupied ∨
    r.occupancy = .detectorFault) : s.freshCredential b r = none := by
  unfold State.freshCredential
  split
  · rfl
  · next c hc =>
    refine if_neg fun ⟨ok, occ, fresh⟩ => ?_
    rcases h with h | h | h | h
    · rw [hc] at h
      cases h
    · exact fresh (h.symm.trans hc)
    · exact h occ
    · exact ok h

/-- Metered power stored and moved into its feeder's load (R143). -/
theorem State.meter_planned (hp : (s.bay b).place = some p) (v : Nat) :
    s.meter b v = { s with
      bays := s.bays.set b.val { s.bay b with metered := v }
      feeders := s.feeders.set p.feeder.val
        { s.feeder p.feeder with
          monitor := (s.feeder p.feeder).monitor.map fun m => { m with load := m.load - (s.bay b).metered + v } } } := by
  have placed : ((s.modBay b fun x => { x with metered := v }).bay b).place = some p := by
    rw [State.bay_modBay_self]
    exact hp
  exact (State.modFeederOf_planned placed _).trans rfl

theorem State.stage7_planned (hp : (s.bay b).place = some p) :
    s.stage7 b r = takeRun ((s.meter b r.metered).evaluateTrim p.feeder) := by
  have feeder : (s.meter b r.metered).feederOf b = some p.feeder := by
    rw [State.meter_planned hp]
    simp [State.feederOf, State.bay, show s.bays[b.val].place = some p from hp]
  simp only [State.stage7, feeder]

/-! ### A report that brings nothing new -/

theorem State.modBay_id {f : Bay → Bay} (h : f (s.bay b) = s.bay b) : s.modBay b f = s := by
  have bays : s.bays.set b.val (f (s.bay b)) = s.bays := by
    rw [h]
    exact Vector.set_getElem_self _
  show { s with bays := s.bays.set b.val (f (s.bay b)) } = s
  rw [bays]

theorem State.modFeeder_id {f : FeederNo} {g : Feeder → Feeder} (h : g (s.feeder f) = s.feeder f) : s.modFeeder f g = s := by
  have feeders : s.feeders.set f.val (g (s.feeder f)) = s.feeders := by
    rw [h]
    exact Vector.set_getElem_self _
  show { s with feeders := s.feeders.set f.val (g (s.feeder f)) } = s
  rw [feeders]

/-- A report in which nothing is new to the bay. -/
structure Report.Repeats (r : Report) (x : Bay) : Prop where
  fault : r.fault = 0
  noPostFault : r.plug ≠ .postFault
  cred : r.cred = none
  plug : r.plug = x.plug
  stop : r.stop = x.stop
  demand : r.demand = x.demand
  occupancy : r.occupancy = .empty ∧ x.occupancy = .empty ∨ r.occupancy = .occupied ∧ x.occupancy = .occupied
  unheld : x.occupancyHeld = false

namespace Report.Repeats

theorem stage1 (h : r.Repeats (s.bay b)) : s.stage1 b r = (s, false) := by
  have post : ¬r.postFault = true := fun e => (r.postFault_iff.1 e).elim (· h.fault) h.noPostFault
  have detector : ¬r.detectorFault = true := fun e => by
    have fault := (r.detectorFault_iff.1 e).2
    rcases h.occupancy with ⟨occ, -⟩ | ⟨occ, -⟩ <;> rw [fault] at occ <;> cases occ
  rw [State.stage1, if_neg post, if_neg detector]

theorem stage2 (h : r.Repeats (s.bay b)) : s.stage2 b r = s := by
  rcases h.occupancy with ⟨reported, last⟩ | ⟨reported, last⟩
  · simp only [State.stage2, reported, last]
  · simp only [State.stage2, reported, last]
    exact State.modBay_id (by rw [← h.unheld])

theorem stage3 (h : r.Repeats (s.bay b)) : s.stage3 b r = s := by
  simp only [State.stage3, State.freshCredential_eq_none (.inl h.cred)]

theorem stage4 (h : r.Repeats (s.bay b)) : s.stage4 b r false = (s, false) := by
  have noStart : ¬((s.bay b).state = .engaged ∧ s.charging b = false ∧ r.plug.plugs = true ∧
      ((s.bay b).plug = .unplugged ∨ false = true)) := by
    rintro ⟨-, -, plugs, unplugged | never⟩
    · rw [h.plug, unplugged] at plugs
      cases plugs
    · cases never
  have noEnd : ¬(s.charging b = true ∧ r.plug = .unplugged ∧ (s.bay b).plug.plugs = true) := by
    rintro ⟨-, unplugged, plugs⟩
    rw [← h.plug, unplugged] at plugs
    cases plugs
  unfold State.stage4
  dsimp only
  rw [if_neg noStart, if_neg noEnd, State.modBay_id (by rw [h.plug])]

theorem stage5 (h : r.Repeats (s.bay b)) : s.stage5 b r = (s, false) := by
  have quiet : ¬(r.stop = true ∧ (s.bay b).stop = false ∧ s.charging b = true) := by
    rintro ⟨stops, last, -⟩
    rw [h.stop, last] at stops
    cases stops
  unfold State.stage5
  dsimp only
  rw [if_neg quiet, State.modBay_id (by rw [h.stop])]

theorem stage6 (h : r.Repeats (s.bay b)) : s.stage6 b r = (s, false) := by
  rw [State.stage6, State.modBay_id (by rw [h.demand])]
  simp [h.demand]

theorem stages1to6 (h : r.Repeats (s.bay b)) : s.stages1to6 b r = (s, false) := by
  have same : ((s.bay b).state != BayState.engaged && (s.bay b).state == BayState.engaged) = false := by
    cases (s.bay b).state <;> rfl
  simp only [State.stages1to6, h.stage1, h.stage2, h.stage3, same, h.stage4, h.stage5, h.stage6, Bool.or_false]

end Report.Repeats

/-- A NORMAL monitor whose load is not above its high mark stays as it is. -/
theorem State.evaluateTrim_normal {f : FeederNo} {m : Monitor} (h : (s.feeder f).monitor = some m) (normal : m.state = .normal)
    (step : m.step = 0) (low : m.load ≤ m.high) : s.evaluateTrim f = (s, false) := by
  have stays : m.advance = m := by
    simp only [Monitor.advance, normal, if_neg (Nat.not_lt.2 low)]
    rw [← step, ← normal]
  simp only [State.evaluateTrim, h, stays, normal, ne_eq, not_true_eq_false, decide_false, false_and, and_false, if_false, reduceCtorEq,
    not_false_eq_true]
  rw [State.modFeeder_id (by rw [← h])]

/-! ### Re-derivation (R39) -/

theorem Report.fault_iff (r : Report) : (r.postFault || r.detectorFault) = true ↔
    r.fault ≠ 0 ∨ r.plug = .postFault ∨ r.occupancy = .detectorFault := by
  rw [Bool.or_eq_true, r.postFault_iff, r.detectorFault_iff, ← or_assoc]
  tauto

theorem State.stopsAtReturn_iff (s : State) (b : BayNo) : s.stopsAtReturn b = true ↔
    (s.bay b).returnRequested = true ∧ 0 < (s.grant b).stranded ∧
      ((s.bay b).reason = some .postFault ∨ (s.bay b).reason = some .operator) := by
  simp [State.stopsAtReturn, and_assoc]

theorem State.rederive_eq (s : State) (first : Bool) (b : BayNo) (r : Report) :
    s.rederive first b r =
      let e1 := s.stage1 b r
      let s2 := if first then e1.1.storeOccupancy b r else e1.1.stage2 b r
      let fresh := s2.freshCredential b r
      let e5 := (s2.storeCredential b fresh).rederiveStages45 first b r
      let e6 := e5.1.stage6 b r
      let s7 := e6.1.modBay b fun x => { x with returnRequested := false }
      let e9 := (if s.stopsAtReturn b then s7.makeStop b else s7).rederiveRow b r fresh
      if r.postFault || r.detectorFault then (s7, e1.2 || e5.2 || e6.2) else (e9.1, e1.2 || e5.2 || e6.2 || e9.2) := rfl

theorem State.storeOccupancy_eq (s : State) (b : BayNo) (r : Report) :
    s.storeOccupancy b r =
      if r.occupancy = .occupied then s.modBay b fun x => { x with occupancy := .occupied, occupancyHeld := false }
      else if r.occupancy = .empty ∧ (s.bay b).occupancy = .occupied then
        if (s.bay b).plug = .unplugged then
          s.modBay b fun x => { x with occupancy := .empty, credential := none, occupancyHeld := false }
        else (s.modBay b fun x => { x with occupancyHeld := true }).bump .detectorDisagree
      else s := by
  unfold State.storeOccupancy
  cases r.occupancy <;> cases (s.bay b).occupancy <;> simp <;> rfl

theorem State.tryStart_open (hb : (s.bay b).bound = some i) (hr : s.record i = some y) (stay : y.stayExhausted = false) :
    s.tryStart b = (s.startSession b i, true) := by
  simp [State.tryStart, hb, hr, stay]

theorem State.tryStart_exhausted (hb : (s.bay b).bound = some i) (hr : s.record i = some y) (stay : y.stayExhausted = true) :
    s.tryStart b = (s.aspectOrder b true, false) := by
  simp [State.tryStart, hb, hr, stay]

end Sys2Proof.Machine

open Sys2Proof Sys2Proof.Machine

/-- Settles O50: the end of a POLL, each stage that is not settled elsewhere, and a report that repeats what the bay holds. -/
theorem aReportIsTakenInItsStages : Obligations.AReportIsTakenInItsStages := by
  refine ⟨fun s l frame x line poll here good link stays => ?_, fun s b r => ?_,
    fun s l frame x p m line poll here good hp link unrequested => ?_⟩
  · intro r b heard e u
    have event : (s.freeLine l false).pollEndsGood b r = heard.takeReport false b r := State.pollEndsGood_reachable link
    have noReturn : ¬(heard.bay b).rederives false = true := by
      rw [Bay.rederives_iff]
      rintro ⟨out, asked | ⟨never, -⟩⟩
      · exact stays ⟨out, asked⟩
      · cases never
    rw [State.report_good line poll here good, event, State.takeReport_stages noReturn]
    rfl
  · intro x
    refine ⟨?_, fun c hc ok occ fresh => ?_, fun stale => ?_, rfl, fun p m hp hm => ?_⟩
    · intro e1 s2 s3 e4 e5 e6
      have became : ((s2.bay b).state != .engaged && (s3.bay b).state == .engaged) =
          decide ((s2.bay b).state ≠ .engaged ∧ (s3.bay b).state = .engaged) := by
        rw [Bool.decide_and, bne, beq_eq_decide, beq_eq_decide]
        simp
      unfold State.stages1to6
      dsimp only
      rw [became]
    · simp only [State.stage3, State.freshCredential_eq_some hc ok occ fresh]
      rfl
    · simp only [State.stage3, State.freshCredential_eq_none stale]
    · rw [State.stage7_planned hp, State.meter_planned hp, hm]
      rfl
  · intro r b fault noPostFault cred plug stop demand occupancy unheld serves idle unstranded agrees aspect hm normal step low t
    have reaches := (LinkState.reachable_iff _).1 link
    let heard := (s.freeLine l false).modUnit b (·.good)
    have repeats : r.Repeats (heard.bay b) := ⟨fault, noPostFault, cred, plug, stop, demand, occupancy, unheld⟩
    have noReturn : ¬(heard.bay b).rederives false = true := by
      rw [Bay.rederives_iff]
      exact fun ⟨out, _⟩ => serves out
    let metered : State := { heard with
      bays := s.bays.set b.val { s.bay b with metered := r.metered }
      feeders := s.feeders.set p.feeder.val
        { s.feeder p.feeder with monitor := some { m with load := m.load - (s.bay b).metered + r.metered } } }
    have seventh : heard.stage7 b r = metered := by
      have placed : (heard.bay b).place = some p := hp
      have moved : heard.meter b r.metered = metered := by
        rw [State.meter_planned placed, show (heard.feeder p.feeder).monitor = some m from hm]
        rfl
      have monitor : (metered.feeder p.feeder).monitor =
          some { m with load := m.load - (s.bay b).metered + r.metered } := by simp [metered, State.feeder]
      rw [State.stage7_planned placed, moved, State.evaluateTrim_normal monitor normal step low]
      rfl
    have eighth : metered.stage8 b r = t := by
      have bay : metered.bay b = { s.bay b with metered := r.metered } := by simp [metered, State.bay]
      have verified : metered.verify b r.inForce = (metered.modUnit b (·.clearVerify), false) := by
        have serving : ¬((metered.bay b).state = .outOfService ∧ (metered.bay b).reason = some .postFault) := by
          rw [bay]
          exact fun ⟨out, _⟩ => serves out
        have free : ¬(metered.grant b).outstanding.isSome = true := by
          rw [show (metered.grant b).outstanding = none from idle]
          decide
        rw [State.verify, if_neg serving, if_neg free]
        exact if_pos agrees
      have unreturned : (metered.modUnit b (·.clearVerify)).returningUnit b r.inForce =
          (metered.modUnit b (·.clearVerify), false) := by
        refine if_neg fun ⟨stranded, _⟩ => ?_
        rw [show ((metered.modUnit b (·.clearVerify)).grant b).stranded = 0 from unstranded] at stranded
        cases stranded
      have shown : (metered.modUnit b (·.clearVerify)).compareAspect b r.aspect = metered.modUnit b (·.clearVerify) := by
        refine if_pos ?_
        rw [State.bay_modUnit, bay, aspect]
        simp
      simp only [State.stage8, verified, unreturned, shown, Bool.or_false]
      show metered.modUnit b (·.clearVerify) = t
      apply State.ext <;> simp [metered, heard, t, State.modUnit, State.freeLine, State.modLane, State.lane, BayUnit.good,
        BayUnit.clearVerify]
    have event : (s.freeLine l false).pollEndsGood b r = t := by
      have taken : (s.freeLine l false).pollEndsGood b r = heard.takeReport false b r := State.pollEndsGood_reachable reaches
      rw [taken, State.takeReport_stages noReturn, repeats.stages1to6]
      show (heard.stage7 b r).stage8 b r = t
      rw [seventh, eighth]
    have bays : t.bays = s.bays.set b.val { s.bay b with metered := r.metered } := rfl
    have lamps : State.aspectOrders s t = t := aspectOrders_same _ _ fun x _ => State.aspect_of_set bays rfl x
    rw [State.report_good line poll here good]
    show Host.Outcome.next ((State.aspectOrders s ((s.freeLine l false).pollEndsGood b r)).chooseNext l) = _
    rw [event, lamps]

/-- Settles O35: who re-derives, the stages of a re-derivation for a first reply and for another, and its rows. -/
theorem firstRepliesAndReturnsRederive : Obligations.FirstRepliesAndReturnsRederive := by
  refine ⟨fun s l frame x line poll here good => ?_, fun s b r first => ?_, fun s b r fresh plan hplan => ?_⟩
  · intro r b out freed ends
    have taken (t : State) (e : State × Bool) (event : freed.pollEndsGood b r = ((takeRun e).stage7 b r).stage8 b r) : ends e := by
      show exec (.report l frame) s = _
      rw [State.report_good line poll here good]
      exact congrArg (fun u => Host.Outcome.next ((State.aspectOrders s u).chooseNext l)) event
    refine ⟨fun link => ?_, fun link out asked => ?_⟩
    · intro u
      have event : freed.pollEndsGood b r = u.takeReport true b r := State.pollEndsGood_first link
      refine ⟨fun out why => taken u _ ?_, fun out unasked heard found => taken u _ ?_⟩
      · rw [event, State.takeReport_rederives]
        exact (Bay.rederives_iff _ _).2 ⟨out, why.imp_right fun h => ⟨rfl, h⟩⟩
      · rw [event, State.takeReport_stages]
        rw [Bay.rederives_iff]
        rintro ⟨-, asked | ⟨-, unheard | lost⟩⟩
        · exact absurd (unasked.symm.trans asked) (by decide)
        · exact heard unheard
        · exact found lost
    · have event : freed.pollEndsGood b r = (freed.modUnit b (·.good)).takeReport false b r := State.pollEndsGood_reachable link
      have returns : ((freed.modUnit b (·.good)).bay b).rederives false = true := (Bay.rederives_iff _ _).2 ⟨out, .inl asked⟩
      refine taken freed _ ?_
      rw [event, State.takeReport_rederives returns]
      rfl
  · intro withBay e1 y stored s2 fresh s3 e4 e5 e6 s7 called fault stops e9
    have occupancy : (if first then e1.1.storeOccupancy b r else e1.1.stage2 b r) = s2 := by
      rw [State.storeOccupancy_eq]
      rfl
    have credential : s2.freshCredential b r = fresh := by
      simp only [fresh, State.freshCredential]
      cases r.cred <;> rfl
    have storing (c : Option Credential) : s2.storeCredential b c =
        match c with | some c => withBay s2 { s2.bay b with credential := some c } | none => s2 := by cases c <;> rfl
    have stored_eq : s2.storeCredential b fresh = s3 := storing fresh
    have plugs : s3.rederiveStages45 first b r = (e5.1, e4.2 || e5.2) := by
      cases first with
      | false => rfl
      | true => simp [State.rederiveStages45, e5, e4, withBay, State.modBay, State.bay]
    have calls : (e1.2 || (e4.2 || e5.2) || e6.2) = called := by simp only [called, Bool.or_assoc]
    have derived : s.rederive first b r =
        if r.postFault || r.detectorFault then (s7, called)
        else
          (((if s.stopsAtReturn b then s7.makeStop b else s7).rederiveRow b r fresh).1,
            called || ((if s.stopsAtReturn b then s7.makeStop b else s7).rederiveRow b r fresh).2) := by
      rw [State.rederive_eq]
      dsimp only
      rw [occupancy, credential, stored_eq, plugs]
      dsimp only
      rw [calls]
      rfl
    have stop : (if s.stopsAtReturn b then s7.makeStop b else s7) = if stops then s7.makeStop b else s7 :=
      if_congr (s.stopsAtReturn_iff b) rfl rfl
    refine ⟨fun h => ?_, fun h => ?_⟩
    · rw [derived, if_pos (r.fault_iff.2 h)]
    · rw [derived, if_neg fun e => h (r.fault_iff.1 e), stop]
  · intro x
    have unbound (t : State) (free : t.plan = some plan) : t.rederiveUnbound b r fresh =
        (match fresh with
          | some c => ((t.enter b .identifying).startDeadline .identifyEnd (.bay b) plan.site.identifyTime).present b c
          | none => (t.enter b .identifying).startDeadline .identifyEnd (.bay b) plan.site.identifyTime).resumeEngaged b r := by
      rw [← State.identifyTime_plan free]
      cases fresh <;> rfl
    refine ⟨fun emp free => ?_, fun i emp hb => ?_, fun i y occ hb hr => ⟨fun st => ?_, fun st => ?_, fun st => ?_⟩,
      fun occ free => ?_, fun st => if_neg st, fun i y st hb hr => ?_⟩
    · simp only [State.rederiveRow, show (s.bay b).occupancy = .empty from emp, show (s.bay b).bound = none from free]
      rfl
    · simp only [State.rederiveRow, show (s.bay b).occupancy = .empty from emp, show (s.bay b).bound = some i from hb]
      rfl
    · simp only [State.rederiveRow, show (s.bay b).occupancy = .occupied from occ, show (s.bay b).bound = some i from hb, hr, st]
    · simp only [State.rederiveRow, show (s.bay b).occupancy = .occupied from occ, show (s.bay b).bound = some i from hb, hr, st]
    · simp only [State.rederiveRow, show (s.bay b).occupancy = .occupied from occ, show (s.bay b).bound = some i from hb, hr, st]
    · simp only [State.rederiveRow, show (s.bay b).occupancy = .occupied from occ, show (s.bay b).bound = none from free]
      exact unbound s hplan
    · intro plugged graced
      have grace (t : State) : t.startDeadline .graceEnd (.bay b) s.graceTime = graced t := by
        rw [State.graceTime_plan hplan]
      have plugs_iff : r.plug.plugs = true ↔ plugged := r.plug.plugs_iff
      have bound : (s.bay b).bound.bind s.record = some y := by rw [show (s.bay b).bound = some i from hb, Option.bind_some, hr]
      have resumes (e : State × Bool) (h : (if r.plug.plugs then s.tryStart b else (s, false)) = e) : s.resumeEngaged b r =
          if (e.1.bay b).state = .engaged ∧ (y.sessionDone = true ∨ y.stayExhausted = true) then (graced e.1, e.2) else e := by
        simp only [State.resumeEngaged, show (s.bay b).state = .engaged from st, if_true, bound, h, grace]
      refine ⟨fun h open_ => ?_, fun h exhausted => ?_, fun h why => ?_, fun h done stay => ?_⟩
      · have charging : ((s.startSession b i).bay b).state = .charging := by
          rw [State.startSession_eq hr]
          simp [State.bay]
        rw [resumes _ (by rw [if_pos (plugs_iff.2 h), State.tryStart_open hb hr open_]), if_neg]
        rw [charging]
        simp
      · rw [resumes _ (by rw [if_pos (plugs_iff.2 h), State.tryStart_exhausted hb hr exhausted]), if_pos]
        refine ⟨?_, .inr exhausted⟩
        rw [State.aspectOrder_eq]
        exact st
      · rw [resumes (s, false) (if_neg fun e => h (plugs_iff.1 e)), if_pos ⟨st, why⟩]
      · rw [resumes (s, false) (if_neg fun e => h (plugs_iff.1 e)), if_neg]
        rw [done, stay]
        simp

end

section
/-! SUPPORT. Failed exchanges and lost units (R161 to R164), and the requests at a bay (R41 to R43). -/

-- One proof after another: side by side, the package as one text takes a thread and its stack for each.
set_option Elab.async false

namespace Sys2Proof.Machine

variable {s t : State} {i : SlotNo} {b : BayNo} {l : LaneNo} {r : Reservation} {p : BayPlan}

/-! ### The end of an exchange (R156, R161, R162) -/

theorem State.endExchange_idle (h : (s.lane l).line = none) (bytes : List Byte) : s.endExchange l bytes = s := by
  simp only [State.endExchange, h]

theorem State.endExchange_removed {x : Exchange} (line : (s.lane l).line = some x) (gone : x.removed = true) (bytes : List Byte) :
    s.endExchange l bytes = (s.freeLine l true).chooseNext l := by
  have lamps : State.aspectOrders s (s.freeLine l true) = s.freeLine l true := aspectOrders_bays rfl
  simp only [State.endExchange, line, State.takeEnd, gone, if_true, lamps]

/-- The commands that end an exchange with a failure end it on bytes that are judged so. -/
theorem exec_fails {c : Instr} {x : Exchange} (h : c = .replyTimeout l ∨ ∃ frame, judgeReply x frame ≠ none ∧
    (c = .badReplyFrame l frame ∨ c = .report l frame ∨ c = .ack l frame)) :
    ∃ bytes, judgeReply x bytes ≠ none ∧ exec c s = .next (s.endExchange l bytes) := by
  rcases h with rfl | ⟨frame, bad, rfl | rfl | rfl⟩
  · exact ⟨[], by simp [judgeReply], rfl⟩
  · exact ⟨frame, bad, rfl⟩
  · exact ⟨frame, bad, rfl⟩
  · exact ⟨frame, bad, rfl⟩

theorem State.endExchange_failed {x : Exchange} {bytes : List Byte} (line : (s.lane l).line = some x) (here : x.removed = false)
    (bad : judgeReply x bytes ≠ none) :
    s.endExchange l bytes = (State.aspectOrders s ((s.freeLine l false).exchangeFailed x.bay)).chooseNext l := by
  obtain ⟨why, judged⟩ := Option.ne_none_iff_exists'.1 bad
  simp only [State.endExchange, line, State.takeEnd, here, Bool.false_eq_true, if_false, judged]

/-! ### A failed exchange with a unit (R162, R163) -/

theorem State.modUnit_bump (c : Counter) (f : BayUnit → BayUnit) : (s.bump c).modUnit b f = (s.modUnit b f).bump c := by
  rw [State.bump_eq_of (t := s.modUnit b f) (u := s) rfl rfl, State.bump_eq_of (t := s) (u := s) rfl rfl]
  rfl

theorem BayUnit.failed_unreached {u : BayUnit} (h : u.link = .unheard ∨ u.link = .lost) : u.failed = { u with countdown := 0 } := by
  rcases h with h | h <;> simp [BayUnit.failed, h]

theorem BayUnit.failed_active {u : BayUnit} (h : u.link = .active) : u.failed = { u with link := .silent, countdown := 2 } := by
  simp [BayUnit.failed, h]

theorem BayUnit.failed_silent {u : BayUnit} (h : u.link = .silent) (count : u.countdown = 2) :
    u.failed = { u with countdown := 1 } := by
  simp [BayUnit.failed, h, count]

theorem BayUnit.failed_last {u : BayUnit} (h : u.link = .silent) (count : u.countdown = 1) :
    u.failed = { u with link := .lost, countdown := 0 } := by
  simp [BayUnit.failed, h, count]

/-- A failed exchange that does not make the unit LOST counts and moves the link state alone. -/
theorem State.exchangeFailed_kept (h : (s.unit b).link = .lost ∨ (s.unit b).failed.link ≠ .lost) :
    s.exchangeFailed b = (s.modUnit b (·.failed)).bump .linkFailures := by
  have kept : ¬((s.unit b).link ≠ .lost ∧ (((s.bump .linkFailures).modUnit b (·.failed)).unit b).link = .lost) := by
    rw [State.unit_modUnit_self, State.unit_bump]
    tauto
  exact (if_neg kept).trans (State.modUnit_bump _ _)

theorem State.exchangeFailed_lost (was : (s.unit b).link ≠ .lost) (now : (s.unit b).failed.link = .lost) :
    s.exchangeFailed b = ((s.modUnit b (·.failed)).bump .linkFailures).unitLost b := by
  have lost : (s.unit b).link ≠ .lost ∧ (((s.bump .linkFailures).modUnit b (·.failed)).unit b).link = .lost := by
    rw [State.unit_modUnit_self, State.unit_bump]
    exact ⟨was, now⟩
  refine (if_pos lost).trans ?_
  rw [State.modUnit_bump]

theorem State.bayLosesUnit_inService (h : (s.bay b).state.inService = true) :
    s.bayLosesUnit b = (s.leaveService b .linkLost).endSession b false true := by
  unfold State.bayLosesUnit
  cases st : (s.bay b).state <;> simp_all [BayState.inService]

/-- Two counted events change the counters and the notices, by what they were. -/
theorem State.bump_bump_of (counters : t.counters = s.counters) (notices : t.notices = s.notices) (c d : Counter) :
    (t.bump c).bump d = { t with counters := ((s.bump c).bump d).counters, notices := ((s.bump c).bump d).notices } := by
  have once := State.bump_eq_of counters notices c
  rw [once]
  exact State.bump_eq_of (t := { t with counters := (s.bump c).counters, notices := (s.bump c).notices }) (u := s.bump c) rfl rfl d

/-! ### The bay requests (R41 to R43) -/

/-- Whether a session runs is read from the bay's binding and the records alone. -/
theorem State.charging_of_bound (bound : (t.bay b).bound = (s.bay b).bound) (slots : t.slots = s.slots) :
    t.charging b = s.charging b := by
  simp only [State.charging, State.sessionAt, State.record, State.slot, bound, slots]

theorem Bay.mayReturn_iff (x : Bay) : x.mayReturn = true ↔
    x.state = .outOfService ∧ (x.reason = some .operator ∨ x.reason = some .postFault ∨ x.reason = some .detectorFault) := by
  simp [Bay.mayReturn, or_assoc]

theorem Bay.outFor_iff (x : Bay) (reason : Reason) : x.outFor reason = true ↔ x.state = .outOfService ∧ x.reason = some reason := by
  simp [Bay.outFor]

theorem State.clearStrandedGrant_planned (hp : (s.bay b).place = some p) :
    s.clearStrandedGrant b = { s with
      grants := s.grants.set b.val { s.grant b with stranded := 0 }
      feeders := s.feeders.set p.feeder.val
        { s.feeder p.feeder with stranded := (s.feeder p.feeder).stranded - (s.grant b).stranded } } :=
  (State.modFeederOf_planned (s := s.modGrant b _) (p := p) hp _).trans rfl

end Sys2Proof.Machine

open Sys2Proof Sys2Proof.Machine

/-- Settles O53: no exchange, a removed bay, and a failure by the unit's link state. -/
theorem failedExchangesSilenceTheUnit : Obligations.FailedExchangesSilenceTheUnit := by
  intro s l
  refine ⟨fun _ => rfl, fun idle => ⟨congrArg _ (State.endExchange_idle idle _), fun frame =>
    ⟨congrArg _ (State.endExchange_idle idle _), congrArg _ (State.endExchange_idle idle _),
      congrArg _ (State.endExchange_idle idle _)⟩⟩, fun c x frame line gone h => ?_, fun c x line here h => ?_⟩
  · rcases h with rfl | rfl | rfl | rfl <;> exact congrArg _ (State.endExchange_removed line gone _)
  · intro b u fails
    obtain ⟨bytes, bad, event⟩ := exec_fails (s := s) h
    rw [event, State.endExchange_failed line here bad]
    have unit : (s.freeLine l false).unit b = u := rfl
    have counted (v : BayUnit) (failed : u.failed = v) :
        ((s.freeLine l false).modUnit b (·.failed)).bump .linkFailures = fails v := by
      rw [← failed]
      rfl
    have kept (v : BayUnit) (failed : u.failed = v) (stays : u.link = .lost ∨ v.link ≠ .lost) :
        Host.Outcome.next ((State.aspectOrders s ((s.freeLine l false).exchangeFailed b)).chooseNext l) =
          (.next ((fails v).chooseNext l) : Host.Outcome State Fault Refusal) := by
      have lamps : State.aspectOrders s (fails v) = fails v := aspectOrders_bays (by simp [fails])
      rw [State.exchangeFailed_kept (by rw [unit, failed]; exact stays), counted v failed, lamps]
    refine ⟨fun link => kept _ (BayUnit.failed_unreached link) ?_, fun link => kept _ (BayUnit.failed_active link) (.inr (by simp)),
      fun link count => kept _ (BayUnit.failed_silent link count) (.inr (by simp [link])), fun p link count hp => ?_⟩
    · exact link.symm.imp_right fun h => by simp [h]
    · intro g committed counted lane lost tested ends
      have failed : u.failed = { u with link := .lost, countdown := 0 } := BayUnit.failed_last link count
      have event : (s.freeLine l false).exchangeFailed b = (tested.bayLosesUnit b).allocationRun := by
        rw [State.exchangeFailed_lost (by rw [unit, link]; decide) (by rw [unit, failed])]
        have dropped : ((((((((s.freeLine l false).modUnit b (·.failed)).bump .linkFailures).bump .unitsLost).modLane (laneOf b)
            fun l => { l with queue := l.queue.filter fun e => e.bay != b }).modUnit b (·.clearVerify)).strand b committed).modGrant b
              fun g => { g with outstanding := none, pending := none, heldBack := none }) = lost := by
          have verdict : ({ link := .lost, countdown := 0, mismatch := 0, resends := 0 } : BayUnit) = u.failed.clearVerify := by
            rw [failed]
            rfl
          have counted_eq : counted =
              (((s.freeLine l false).modUnit b fun y => y.failed.clearVerify).bump .linkFailures).bump .unitsLost := by
            simp only [counted, verdict]
            rfl
          have twice (f : BayUnit → BayUnit) := State.bump_bump_of (s := s) (t := (s.freeLine l false).modUnit b f) rfl rfl
            .linkFailures .unitsLost
          simp only [lost, lane, counted_eq, twice]
          rw [State.strand_planned (p := p)]
          case hp => exact hp
          apply State.ext <;>
            simp [State.modUnit, State.modLane, State.modGrant, State.lane, State.freeLine, State.grant, State.feeder, g]
        have held : ((((s.freeLine l false).modUnit b (·.failed)).bump .linkFailures).grant b).committed = committed := by
          rw [State.grant_bump]
          exact Grants.committed_eq _
        have tests : lost.testGateOf b = tested := State.testGateOf_planned (by simpa [lost, counted, fails, State.bay] using hp)
        unfold State.unitLost
        dsimp only
        rw [held, dropped, tests]
      have bays : tested.bays = s.bays := by
        rw [((State.Orders.refl lost).testGate p.feeder).bays]
        simp [lost, counted, fails]
      have at_ : tested.bay b = s.bay b := by simp only [State.bay, bays]
      have ended (t : State) (h : tested.bayLosesUnit b = t) : ends t := by
        rw [h] at event
        exact congrArg (fun u => Host.Outcome.next ((State.aspectOrders s u).chooseNext l)) event
      refine ⟨fun planned inService => ended _ ?_, fun out why => ended _ ?_, fun out why => ended _ ?_⟩
      · exact State.bayLosesUnit_inService (by rw [at_]; exact (BayState.inService_iff _).2 ⟨planned, inService⟩)
      · simp only [State.bayLosesUnit, at_, show (s.bay b).state = .outOfService from out, why]
      · rcases why with why | why <;>
          simp only [State.bayLosesUnit, at_, show (s.bay b).state = .outOfService from out, why]

/-- Settles O29: by the bay's state, and by what CLEAR STRANDED finds. -/
theorem bayRequestsActByTheBaysState : Obligations.BayRequestsActByTheBaysState := by
  refine ⟨fun n b s hn lawful => ?_, fun n b s p hn takes hp => ?_⟩
  · intro out into taken ofOperator
    have bays (y : Bay) : ({ s with bays := s.bays.set b.val y } : State).bays = s.bays.set b.val y := rfl
    have lampOut (st : (s.bay b).state = .outOfService) : Aspect.outOfService = (s.bay b).aspect := by
      rw [lawful.1, st]
      rfl
    let over_ : State := { s with bays := s.bays.set b.val { taken with returnRequested := false } }
    have takenOver : (s.takeOut b .operator).modBay b (fun x => { x with returnRequested := false }) = over_ := by
      simp [State.takeOut, State.modBay, over_, taken, Bay.takenOut, State.bay, BayState.aspect]
    have overRuns : over_.charging b = s.charging b := State.charging_of_bound (by simp [over_, taken, State.bay]) rfl
    have overLamps (st : (s.bay b).state = .outOfService) (x : BayNo) : (over_.bay x).aspect = (s.bay x).aspect :=
      State.aspect_of_set (bays _) (lampOut st) x
    refine ⟨fun st planned takes => ?_, fun i r st hb hr held takes => ?_, fun st idle takes => ?_, fun st runs takes => ?_,
      fun unfree unheld inService takes => ?_, fun h takes => ?_, fun h takes => ?_⟩
    · have event : State.serviceOut b s = ({ s with bays := s.bays.set b.val taken }, ⟨.ok, []⟩) := by
        simp only [State.serviceOut, st]
        rfl
      have lamp : taken.aspect ≠ (s.bay b).aspect := by
        rw [lawful.1, st]
        simp [taken, BayState.aspect]
      rw [exec_serviceOut hn takes, event, State.taken,
        State.aspectOrders_set (bays taken) (by simpa [taken, Option.isSome_iff_ne_none] using planned) lamp rfl rfl]
    · have event : State.serviceOut b s = (({ s with bays := s.bays.set b.val taken } : State).rehome i, ⟨.ok, []⟩) := by
        simp only [State.serviceOut, st]
        have bound : ((s.takeOut b .operator).bay b).bound = some i := by simpa [State.takeOut, Bay.takenOut] using hb
        have record : (s.takeOut b .operator).record i = some r := hr
        rw [State.rehomeHeldAt_held bound record held]
        rfl
      rw [exec_serviceOut hn takes, event]
      rfl
    · have event : State.serviceOut b s = (over_, ⟨.ok, []⟩) := by
        simp only [State.serviceOut, st, State.takeOver, takenOver, State.endSession_idle (overRuns.trans idle), takeRun, idle,
          Bool.false_eq_true, if_false]
      rw [exec_serviceOut hn takes, event, State.taken_of_aspect (overLamps st)]
    · have event : State.serviceOut b s = ((over_.endSession b true true).allocationRun, ⟨.ok, []⟩) := by
        simp only [State.serviceOut, st, State.takeOver, takenOver, takeRun, runs, if_true]
      have uncharged : (over_.bay b).state ≠ .charging := by simp [over_, taken, State.bay]
      rw [exec_serviceOut hn takes, event, State.taken_of_aspect fun x => ((State.aspect_allocationRun _ x).trans
        (State.aspect_endSession (fun h => absurd h uncharged) true true x)).trans (overLamps st x)]
    · have event : State.serviceOut b s = (s, ⟨.wrongState, []⟩) := by
        unfold State.serviceOut
        cases st : (s.bay b).state <;> simp_all
      rw [exec_serviceOut hn takes, event]
      exact State.taken_of_aspect fun _ => rfl
    · have event : State.serviceIn b s = ({ s with bays := s.bays.set b.val { s.bay b with returnRequested := true } }, ⟨.ok, []⟩) :=
        if_pos ((Bay.mayReturn_iff _).2 h)
      rw [exec_serviceIn hn takes, event]
    · have event : State.serviceIn b s = (s, ⟨.wrongState, []⟩) := if_neg fun e => h ((Bay.mayReturn_iff _).1 e)
      rw [exec_serviceIn hn takes, event]
  · intro lost faulty f u
    have may_iff : s.mayClearStranded b = true ↔ lost ∨ faulty ∨ 0 < (s.grant b).stranded := by
      simp [State.mayClearStranded, Bay.outFor_iff, hp, or_assoc, lost, faulty]
    refine ⟨fun h => ?_, fun found unfaulty zero => ?_⟩
    · have cleared : (if (s.bay b).outFor .linkLost then (s.clearStrandedGrant b).meter b 0 else s.clearStrandedGrant b) = u := by
        have placed : ((s.clearStrandedGrant b).bay b).place = some p := by
          rw [State.clearStrandedGrant_planned hp]
          exact hp
        by_cases gone : lost
        · rw [if_pos ((Bay.outFor_iff _ _).2 gone), State.meter_planned placed, State.clearStrandedGrant_planned hp]
          apply State.ext <;> simp [u, f, gone, State.bay, State.feeder]
        · have monitor (m : Option Monitor) :
              m.map (fun m => { m with load := if lost then m.load - (s.bay b).metered else m.load }) = m := by
            cases m <;> simp [gone]
          have bays : s.bays.set b.val { s.bay b with metered := if lost then 0 else (s.bay b).metered } = s.bays := by
            rw [if_neg gone]
            exact Vector.set_getElem_self _
          rw [if_neg fun e => gone ((Bay.outFor_iff _ _).1 e), State.clearStrandedGrant_planned hp]
          simp only [u, f, monitor, bays]
      have event : State.clearStranded b s = (u.allocationRun, ⟨.ok, []⟩) := by
        simp only [State.clearStranded, if_pos (may_iff.2 h), cleared]
      have bays : u.bays = s.bays.set b.val { s.bay b with metered := if lost then 0 else (s.bay b).metered } := rfl
      rw [exec_clearStranded hn takes, event, State.taken_of_aspect fun x => (State.aspect_allocationRun _ x).trans
        (State.aspect_of_set bays rfl x)]
    · have event : State.clearStranded b s = (s, ⟨.wrongState, []⟩) := by
        refine if_neg fun e => ?_
        rcases may_iff.1 e with h | h | h
        · exact found h
        · exact unfaulty h
        · omega
      rw [exec_clearStranded hn takes, event]
      exact State.taken_of_aspect fun _ => rfl

end

section
/-! SUPPORT. The records the queries answer with, field by field (R40, R112, R139, R192, 12.4). -/

-- One proof after another: side by side, the package as one text takes a thread and its stack for each.
set_option Elab.async false

namespace Sys2Proof.Machine

variable {s : State} {i : SlotNo} {b : BayNo} {f : FeederNo}

/-! ### Codes fit their byte (12.1) -/

theorem Kind.code_lt (x : Kind) : x.code < 256 := by cases x <;> decide

theorem BayState.code_lt (x : BayState) : x.code < 256 := by cases x <;> decide

theorem Reason.code_lt (x : Reason) : x.code < 256 := by cases x <;> decide

theorem Occupancy.code_lt (x : Occupancy) : x.code < 256 := by cases x <;> decide

theorem PlugState.code_lt (x : PlugState) : x.code < 256 := by cases x <;> decide

theorem Aspect.code_lt (x : Aspect) : x.code < 256 := by cases x <;> decide

theorem LinkState.code_lt (x : LinkState) : x.code < 256 := by cases x <;> decide

/-- A code, or 0 where it is absent, fits its byte when every code does. -/
theorem getD_map_lt {α : Type} (x : Option α) (code : α → Nat) (h : ∀ a, code a < 256) : (x.map code).getD 0 < 256 := by
  cases x with
  | none => exact Nat.zero_lt_succ _
  | some a => exact h a

/-! ### The bay record and the feeder record -/

/-- The plan data of a bay, field by field. -/
theorem placeBytes_eq (x : Option BayPlan) : placeBytes x =
    le 1 ((x.map (·.zone.val)).getD 0) ++ (le 1 ((x.map (·.feeder.val)).getD 0) ++ (le 1 ((x.map (·.kind.code)).getD 0) ++
      (le 2 ((x.map (·.pmin)).getD 0) ++ le 2 ((x.map (·.pmax)).getD 0)))) := by
  cases x with
  | none => rfl
  | some p => simp [placeBytes]

/-- The bay record as its fields, first behind the other (12.4). -/
theorem State.bayRecord_eq (s : State) (b : BayNo) : s.bayRecord b =
    le 2 b.val ++ (le 1 (((s.bay b).place.map (·.zone.val)).getD 0) ++ (le 1 (((s.bay b).place.map (·.feeder.val)).getD 0) ++
    (le 1 (((s.bay b).place.map (·.kind.code)).getD 0) ++ (le 2 (((s.bay b).place.map (·.pmin)).getD 0) ++
    (le 2 (((s.bay b).place.map (·.pmax)).getD 0) ++ (le 1 (s.bay b).state.code ++
    (le 1 (((s.bay b).reason.map (·.code)).getD 0) ++
    (le 1 (bitIf 0 (s.bay b).returnRequested + bitIf 1 (s.bay b).keptHold + bitIf 2 (s.bay b).occupancyHeld +
      bitIf 3 (s.bay b).stop + bitIf 4 (s.bay b).starved + bitIf 5 (s.bay b).bound.isSome + bitIf 6 (s.bay b).credential.isSome) ++
    (le 2 (((s.bay b).bound.map s.ticket).getD 0) ++ (le 1 (s.bay b).occupancy.code ++ (le 1 (s.bay b).plug.code ++
    (le 5 (((s.bay b).credential.map (·.toNat)).getD 0) ++ (le 2 (s.bay b).metered ++ (le 2 (s.bay b).demand ++
    (le 1 (s.bay b).aspect.code ++ (le 1 (s.unit b).link.code ++ (le 1 (s.unit b).countdown ++ (le 2 (s.grant b).target ++
    (le 2 (s.grant b).acknowledged ++ (le 2 (((s.grant b).outstanding.map (·.value)).getD 0) ++
    (le 2 (((s.grant b).pending.map (·.value)).getD 0) ++ (le 2 (s.grant b).stranded ++
    le 1 (bitIf 0 (s.grant b).outstanding.isSome + bitIf 1 (s.grant b).pending.isSome))))))))))))))))))))))) := by
  unfold State.bayRecord
  simp only [placeBytes_eq, valueOr0, List.append_assoc]

/-- The feeder record as its fields, first behind the other (12.4). -/
theorem State.feederRecord_eq (s : State) (f : FeederNo) (p : FeederPlan) : s.feederRecord f p =
    le 1 f.val ++ (le 2 p.limit ++ (le 2 s.effective ++ (le 2 (s.feeder f).want ++ (le 2 (s.feeder f).budget ++
    (le 2 (s.feeder f).trimmedBudget ++ (le 2 (s.feeder f).sessionBudget ++ (le 2 (s.feeder f).pledge ++
    (le 4 (s.feeder f).stranded ++ (le 4 (((s.feeder f).monitor.map (·.load)).getD 0) ++ (le 1 (s.feeder f).trimStep ++
    (le 2 (s.countOn f s.charging) ++ (le 2 (s.countOn f fun b => s.charging b && (s.bay b).starved) ++
    (le 2 (s.countOn f s.decreasing) ++ le 2 (s.countOn f fun b => (s.grant b).heldBack.isSome)))))))))))))) := by
  unfold State.feederRecord
  simp only [List.append_assoc]

theorem feederNo?_of {n : Byte} (h : n.toNat = f.val) : feederNo? n = some f := by
  unfold feederNo?
  rw [dif_pos (by omega)]
  exact congrArg some (Fin.ext h)

theorem State.feederPlan_of {plan : Plan} (h : s.plan = some plan) (f : FeederNo) :
    s.feederPlan f = plan.feeders.find? (·.number == f) := by
  rw [State.feederPlan, h, Option.bind_some]

/-- The session at a bay is its bound record's, where that record is CHARGING. -/
theorem State.charging_eq_match (s : State) (b : BayNo) :
    s.charging b = match (s.bay b).bound.bind s.record with | some r => r.state == .charging | none => false := by
  cases h : s.charging b with
  | true =>
    obtain ⟨i, q, hb, hr, st⟩ := (State.charging_iff b).1 h
    simp [hb, hr, st]
  | false =>
    have idle := mt (State.charging_iff (s := s) b).2 (by simp [h])
    cases hb : (s.bay b).bound with
    | none => rfl
    | some i =>
      cases hr : s.record i with
      | none => simp [hr]
      | some q =>
        have : q.state ≠ .charging := fun st => idle ⟨i, q, hb, hr, st⟩
        simp [hr, this]

theorem State.countOn_le (s : State) (f : FeederNo) (q : BayNo → Bool) : s.countOn f q ≤ 512 := by
  have := List.countP_le_length (p := fun b => s.onFeeder f b && q b) (l := allBays)
  have : allBays.length = 512 := by rw [← finRange_bays]; simp
  unfold State.countOn
  omega

/-! ### The counter bank (R192) -/

/-- Fields of one length, one behind the other. -/
theorem fieldAt_flatten (n k : Nat) (xs : List Nat) (h : k < xs.length) :
    fieldAt ((xs.map (le n)).flatten) (n * k) n = xs[k] % 256 ^ n := by
  induction xs generalizing k with
  | nil => cases h
  | cons x xs ih =>
    rw [List.map_cons, List.flatten_cons]
    cases k with
    | zero => exact fieldAt_head n x _
    | succ k =>
      rw [fieldAt_next n x _ n _ (by rw [Nat.mul_succ]; omega), show n * (k + 1) - n = n * k by rw [Nat.mul_succ]; omega]
      exact ih k (by simpa using h)

theorem length_flatten_le (n : Nat) (xs : List Nat) : (xs.map (le n)).flatten.length = n * xs.length := by
  induction xs with
  | nil => rfl
  | cons x xs ih =>
    simp only [List.map_cons, List.flatten_cons, List.length_append, length_le, ih, List.length_cons, Nat.mul_succ]
    omega

end Sys2Proof.Machine

open Sys2Proof Sys2Proof.Machine

/-- Settles O28: each record's fields at their places. -/
theorem queriesAnswerAndChangeNothing : Obligations.QueriesAnswerAndChangeNothing := by
  unfold Obligations.QueriesAnswerAndChangeNothing
  intro or0 bit
  have or0_eq (v : Option Nat) : or0 v = v.getD 0 := by cases v <;> rfl
  have bit_eq (n : Nat) (y : Bool) : bit (2 ^ n) y = bitIf n y := rfl
  refine ⟨fun n b s hn takes => ⟨_, exec_queryBay hn takes, ?_⟩, fun n f plan s hn takes hplan => ⟨fun p hp => ?_, fun none_ => ?_⟩,
    fun s takes => ?_, fun s takes => ?_, rfl, rfl, rfl, rfl, rfl, rfl, rfl⟩
  · have record := s.bayRecord_eq b
    refine ⟨?length, ?number, ?zone, ?feeder, ?kind, ?pmin, ?pmax, ?state, ?reason, ?flags, ?ticket, ?occupancy, ?plug, ?credential,
      ?metered, ?demand, ?aspect, ?link, ?countdown, ?target, ?acknowledged, ?outstanding, ?pending, ?stranded, ?orders⟩
    case number =>
      have : b.val < 65536 := by omega
      simpa [record, fieldAt_head] using this
    case zone =>
      have := getD_map_lt (s.bay b).place (·.zone.val) fun p => by have := p.zone.isLt; omega
      simp [record, fieldAt_next, fieldAt_head, or0_eq, Nat.mod_eq_of_lt this]
    case feeder =>
      have := getD_map_lt (s.bay b).place (·.feeder.val) fun p => by have := p.feeder.isLt; omega
      simp [record, fieldAt_next, fieldAt_head, or0_eq, Nat.mod_eq_of_lt this]
    case kind =>
      have := getD_map_lt (s.bay b).place (·.kind.code) fun p => p.kind.code_lt
      simp [record, fieldAt_next, fieldAt_head, or0_eq, Nat.mod_eq_of_lt this]
    case reason =>
      have := getD_map_lt (s.bay b).reason (·.code) Reason.code_lt
      simp [record, fieldAt_next, fieldAt_head, or0_eq, Nat.mod_eq_of_lt this]
    case flags =>
      have := bitIf_le 0 (s.bay b).returnRequested
      have := bitIf_le 1 (s.bay b).keptHold
      have := bitIf_le 2 (s.bay b).occupancyHeld
      have := bitIf_le 3 (s.bay b).stop
      have := bitIf_le 4 (s.bay b).starved
      have := bitIf_le 5 (s.bay b).bound.isSome
      have := bitIf_le 6 (s.bay b).credential.isSome
      have small : bitIf 0 (s.bay b).returnRequested + bitIf 1 (s.bay b).keptHold + bitIf 2 (s.bay b).occupancyHeld +
          bitIf 3 (s.bay b).stop + bitIf 4 (s.bay b).starved + bitIf 5 (s.bay b).bound.isSome +
          bitIf 6 (s.bay b).credential.isSome < 256 := by omega
      simp [record, fieldAt_next, fieldAt_head, Nat.mod_eq_of_lt small]
      rfl
    case ticket =>
      cases hb : (s.bay b).bound with
      | none => simp [record, fieldAt_next, fieldAt_head, hb, or0]
      | some i =>
        have : i.val + 1024 * (s.slot i).generation.val < 65536 := by omega
        simp [record, fieldAt_next, fieldAt_head, hb, or0, State.ticket, ticketOf, Nat.mod_eq_of_lt this]
    case credential =>
      cases hc : (s.bay b).credential with
      | none => simp [record, fieldAt_next, fieldAt_head, hc, or0]
      | some c => simp [record, fieldAt_next, fieldAt_head, hc, or0, Nat.mod_eq_of_lt c.isLt]
    case orders =>
      have := bitIf_le 0 (s.grant b).outstanding.isSome
      have := bitIf_le 1 (s.grant b).pending.isSome
      have small : bitIf 0 (s.grant b).outstanding.isSome + bitIf 1 (s.grant b).pending.isSome < 256 := by omega
      simp [record, fieldAt_next, fieldAt_whole, Nat.mod_eq_of_lt small]
      rfl
    all_goals simp [record, fieldAt_next, fieldAt_head, or0_eq, BayState.code_lt, Occupancy.code_lt, PlugState.code_lt, Aspect.code_lt,
      LinkState.code_lt]
  · have found : s.queryFeeder n = ⟨.ok, s.feederRecord f p⟩ := by
      simp only [State.queryFeeder, feederNo?_of hn, State.feederPlan_of hplan, hp]
    refine ⟨s.feederRecord f p, ?_⟩
    intro x monitor here running
    constructor
    · have := exec_plain s (.queryFeeder n) (fun t => (t, t.queryFeeder n)) takes
      rw [found] at this
      exact this
    · have record := s.feederRecord_eq f p
      have counts (q t : BayNo → Bool) (same : ∀ b, q b = t b) : s.countOn f q = here t := by
        have standing (b : BayNo) : s.onFeeder f b = match (s.bay b).place with | some y => y.feeder == f | none => false := by
          simp only [State.onFeeder, State.feederOf]
          cases (s.bay b).place <;> simp
        simp only [State.countOn, here, finRange_bays, standing, same] <;> rfl
      have short (q : BayNo → Bool) : s.countOn f q % 65536 = s.countOn f q := Nat.mod_eq_of_lt (by have := s.countOn_le f q; omega)
      have load : monitor.load = (x.monitor.map (·.load)).getD 0 := by
        simp only [monitor]
        cases x.monitor <;> rfl
      have step : monitor.step = x.trimStep := by
        simp only [monitor, Feeder.trimStep]
        cases x.monitor <;> rfl
      have number : f.val % 256 = f.val := Nat.mod_eq_of_lt (by omega)
      rw [load, step]
      refine ⟨?_, ?_, ?_, ?_, ?_, ?_, ?_, ?_, ?_, ?_, ?_, ?_, ?running, ?starved, ?decreases, ?held⟩
      case running =>
        refine Eq.trans ?_ (counts s.charging _ s.charging_eq_match)
        simp [record, fieldAt_next, fieldAt_head, short]
      case starved =>
        refine Eq.trans ?_ (counts (fun b => s.charging b && (s.bay b).starved) _ fun b => congrArg (· && _) (s.charging_eq_match b))
        simp [record, fieldAt_next, fieldAt_head, short]
      case decreases =>
        refine Eq.trans ?_ (counts s.decreasing _ fun _ => rfl)
        simp [record, fieldAt_next, fieldAt_head, short]
      case held =>
        refine Eq.trans ?_ (counts (fun b => (s.grant b).heldBack.isSome) _ fun _ => rfl)
        simp [record, fieldAt_next, fieldAt_whole, short]
      all_goals simp [record, fieldAt_next, fieldAt_head, number, x]
  · have lost : s.queryFeeder n = ⟨.noSuch, []⟩ := by
      simp only [State.queryFeeder, feederNo?_of hn, State.feederPlan_of hplan, none_]
    have := exec_plain s (.queryFeeder n) (fun t => (t, t.queryFeeder n)) takes
    rw [lost] at this
    exact this
  · have answer : s.readClock = ⟨.ok, le 4 s.clock ++ le 2 s.deadlines.length ++
        match s.deadlines with
        | d :: _ => le 1 d.kind.code ++ le 4 d.due
        | [] => [0, 0, 0, 0, 0]⟩ := by
      cases h : s.deadlines <;> simp [State.readClock, h, valueOr0] <;> rfl
    have := exec_plain s .readClock (fun t => (t, t.readClock)) takes
    rw [answer] at this
    exact this
  · refine ⟨(s.snapshot.toList.map (le 4)).flatten, exec_plain s .readCounters (fun t => (t, t.readCounters)) takes, ?_, fun k => ?_⟩
    · rw [length_flatten_le]
      simp
    · rw [fieldAt_flatten 4 k.val s.snapshot.toList (by simp)]
      simp

end

section
/-! SUPPORT. AMEND of the stay limit and of the zone mask (R61 to R64): the event of each field, and the record as it then stands. -/

-- One proof after another: side by side, the package as one text takes a thread and its stack for each.
set_option Elab.async false

namespace Sys2Proof.Machine

variable {s t : State} {i : SlotNo} {b y : BayNo} {r x : Reservation} {p : BayPlan} {plan : Plan} {q : AmendReq}

/-! ### An AMEND that is taken (R61) -/

/-- An AMEND whose fields are allowed, and whose mask strands nobody, is answered with the record as it then stands. -/
theorem State.amend_taken (takes : s.takes (.amend q)) (live : s.resolve q.ticket = .live i r)
    (allowed : amendAllowed q r.state = true) (kept : s.maskStrands q r = false) (applied : s.applyAmend q i r = t)
    (now : t.record i = some x) :
    exec (.amend q) s = .next ((State.aspectOrders s t).answered (.amend q) .ok (t.reservationRecord i x)) := by
  have event : s.amend q = (t, ⟨.ok, t.reservationRecord i x⟩) := by
    simp [State.amend, live, allowed, kept, applied, State.recordNow, now]
  rw [exec_amend takes, event]
  rfl

/-- The same where no lamp changes. -/
theorem State.amend_taken_unlit (takes : s.takes (.amend q)) (live : s.resolve q.ticket = .live i r)
    (allowed : amendAllowed q r.state = true) (kept : s.maskStrands q r = false) (applied : s.applyAmend q i r = t)
    (now : t.record i = some x) (lamps : ∀ b, (t.bay b).aspect = (s.bay b).aspect) :
    exec (.amend q) s = .next (t.answered (.amend q) .ok (t.reservationRecord i x)) := by
  rw [State.amend_taken takes live allowed kept applied now, aspectOrders_same _ _ fun b _ => lamps b]

theorem State.leavesBay_unmasked (h : q.maskPresent = 0) : s.leavesBay q r = none := if_pos (.inl h)

theorem State.maskStrands_unmasked (h : q.maskPresent = 0) : s.maskStrands q r = false := by
  simp [State.maskStrands, State.leavesBay_unmasked h]

/-- The record of slot `i` rewritten. -/
def State.withRecord (s : State) (i : SlotNo) (x : Reservation) : State :=
  { s with slots := s.slots.set i.val { s.slot i with record := some x } }

@[simp] theorem State.record_withRecord (s : State) (i : SlotNo) (x : Reservation) : (s.withRecord i x).record i = some x := by
  simp [State.withRecord, State.record, State.slot]

theorem State.modRecord_withRecord (s : State) (i : SlotNo) (x : Reservation) (f : Reservation → Reservation) :
    (s.withRecord i x).modRecord i f = s.withRecord i (f x) := by
  rw [State.modRecord_live (s.record_withRecord i x)]
  simp [State.withRecord, State.slot]

/-- A record is read from the slots alone. -/
theorem State.record_of_slots (h : t.slots = s.slots) (i : SlotNo) : t.record i = s.record i := by
  simp only [State.record, State.slot, h]

theorem State.record_allocationRun (s : State) (i : SlotNo) : s.allocationRun.record i = s.record i :=
  State.record_of_slots s.slots_allocationRun i

/-! ### The stay limit (R62, R71) -/

/-- The clock is no business of a session's end. -/
theorem State.clock_endSession (s : State) (b : BayNo) (stop mark : Bool) : (s.endSession b stop mark).clock = s.clock :=
  ((State.sameOffLane_keepsLive s).endSession s b stop mark ⟨rfl, rfl, rfl, rfl⟩).2.2.1

theorem State.slots_endSession (hb : (s.bay b).bound = some i) (hr : s.record i = some r) (st : r.state = .charging) (stop : Bool) :
    (s.endSession b stop false).record i = some { r with state := .engaged, session := none, sessionDone := true } := by
  rw [State.endSession_eq hb hr st]
  cases stop <;> simp [State.sessionEnded, State.record, State.slot]

/-- A new stay limit in the future is the record's, and its STAY_END stands at the new end. -/
theorem State.amendStay_later (hr : s.record i = some r) {arrived : Nat} (ha : r.arrivedAt = some arrived) (stay : Nat)
    (later : s.clock < min (arrived + stay) 0xFFFFFFFF) :
    s.amendStay i r stay = { s.withRecord i { r with stay := stay, stayExhausted := false } with
      deadlines := insertByDue ⟨.stayEnd, .slot i, min (arrived + stay) 0xFFFFFFFF⟩
        (s.deadlines.filter fun d => d.owner != .slot i) } := by
  have stop : satAdd Config.max32 (r.arrivedAt.getD 0) stay = min (arrived + stay) 0xFFFFFFFF := by rw [ha]; rfl
  unfold State.amendStay
  rw [State.modRecord_live hr, stop]
  refine (if_pos later).trans ?_
  apply State.ext <;> simp [State.withRecord, State.setDeadline, State.dropDeadline, List.filter_filter]

/-- A new stay limit already past runs the stay out. -/
theorem State.amendStay_past (hr : s.record i = some r) {arrived : Nat} (ha : r.arrivedAt = some arrived) (stay : Nat)
    (past : min (arrived + stay) 0xFFFFFFFF ≤ s.clock) (runs : r.state = .charging ∨ r.state = .engaged) :
    s.amendStay i r stay = takeRun
      (((s.withRecord i { r with stay := stay, stayExhausted := false }).dropDeadline (.slot i)).stayRunsOut i
        { r with stay := stay, stayExhausted := false } false) := by
  have stop : satAdd Config.max32 (r.arrivedAt.getD 0) stay = min (arrived + stay) 0xFFFFFFFF := by rw [ha]; rfl
  have now : ((s.withRecord i { r with stay := stay, stayExhausted := false }).dropDeadline (.slot i)).record i =
      some { r with stay := stay, stayExhausted := false } := s.record_withRecord i _
  unfold State.amendStay
  rw [State.modRecord_live hr, stop]
  refine (if_neg past.not_gt).trans ?_
  show ((s.withRecord i _).dropDeadline (.slot i)).stayExpires i false = _
  unfold State.stayExpires
  rw [now]
  rcases runs with st | st <;> simp only [st]

section

variable {u : State} (exhausted : (s.modRecord i fun x => { x with stayExhausted := true }) = u) (hb : r.bay = some b)
include exhausted hb

theorem State.stayRunsOut_charging (st : r.state = .charging) :
    s.stayRunsOut i r false =
      (if (s.bay b).state = .charging then (u.endSession b true false).startDeadline .graceEnd (.bay b) s.graceTime
        else u.endSession b true false, true) := by
  unfold State.stayRunsOut
  rw [exhausted, hb, st]
  dsimp only
  generalize (s.bay b).state = z
  cases z <;> simp

theorem State.stayRunsOut_engaged (st : r.state = .engaged) :
    s.stayRunsOut i r false =
      (if (s.bay b).state = .engaged ∧ u.deadlineOf (.bay b) = none then u.startDeadline .graceEnd (.bay b) s.graceTime else u,
        false) := by
  unfold State.stayRunsOut
  rw [exhausted, hb, st]
  dsimp only
  generalize (s.bay b).state = z
  cases z <;> simp
  cases u.deadlineOf (.bay b) <;> simp

end

/-! ### The zone mask (R64) -/

theorem State.insideMask_planned (hp : (s.bay y).place = some p) (mask : ZoneMask) :
    s.insideMask mask y = mask.getLsbD p.zone.val := by
  simp only [State.insideMask, hp]

theorem State.leavesBay_held (masked : q.maskPresent ≠ 0) (held : r.state = .held) (hb : r.bay = some y)
    (hp : (s.bay y).place = some p) : s.leavesBay q r = if q.mask.getLsbD p.zone.val then none else some y := by
  have asked : ¬(q.maskPresent = 0 ∨ r.state ≠ .held) := fun h => h.elim masked (· held)
  unfold State.leavesBay
  rw [if_neg asked, hb]
  simp only [State.insideMask_planned hp]

theorem State.leavesBay_waiting (st : r.state = .waiting) : s.leavesBay q r = none :=
  if_pos (.inr (by rw [st]; decide))

theorem State.selectMasked_eq (s : State) (r : Reservation) (mask : ZoneMask) :
    s.selectMasked r mask = s.select { ({ r with zoneMask := mask } : Reservation).claim with leaving := r.bay } := rfl

end Sys2Proof.Machine

open Sys2Proof Sys2Proof.Machine

/-- Settles O12: the new end lies ahead, or the stay runs out by the record's and the bay's state. -/
theorem amendStay : Obligations.AmendStay := by
  intro q s i r arrived takes live noHold stays noCap noMask ha last others at_ ends grace x
  obtain ⟨-, hr, -⟩ := State.resolve_live live
  have applied : s.applyAmend q i r = s.amendStay i r q.stay.toNat := by
    rw [State.applyAmend, if_pos noHold, if_neg stays, if_pos noCap, if_pos noMask]
  have allowed (st : r.state = .engaged ∨ r.state = .charging) : amendAllowed q r.state = true :=
    (amendAllowed_iff q r.state).2 ⟨fun h => absurd noHold h, fun _ => st, fun h => absurd noMask h⟩
  have end_ (st : r.state = .engaged ∨ r.state = .charging) {t : State} {z : Reservation}
      (event : s.amendStay i r q.stay.toNat = t) (now : t.record i = some z) (lamps : ∀ b, (t.bay b).aspect = (s.bay b).aspect) :
      ends t z :=
    State.amend_taken_unlit takes live (allowed st) (State.maskStrands_unmasked noMask) (applied.trans event) now lamps
  have now (z : Reservation) (ds : List Deadline) : (at_ z ds).record i = some z := s.record_withRecord i z
  refine ⟨fun st later => ?_, fun b plan past hb hplan => ?_⟩
  · intro z
    exact end_ st (State.amendStay_later hr ha _ later) (now z _) fun _ => rfl
  · have out : ((s.withRecord i { r with stay := q.stay.toNat, stayExhausted := false }).dropDeadline (.slot i)).modRecord i
        (fun x => { x with stayExhausted := true }) = at_ x others := by
      have := State.modRecord_withRecord s i { r with stay := q.stay.toNat, stayExhausted := false }
        fun x => { x with stayExhausted := true }
      exact congrArg (State.dropDeadline · (.slot i)) this
    have graceTime : ((s.withRecord i { r with stay := q.stay.toNat, stayExhausted := false }).dropDeadline (.slot i)).graceTime =
        plan.site.graceTime := State.graceTime_plan hplan
    have owed : (at_ x others).deadlineOf (.bay b) = s.deadlineOf (.bay b) :=
      State.deadlineOf_dropDeadline_ne (s := s.withRecord i x) (by simp)
    have event (st : r.state = .charging ∨ r.state = .engaged) := State.amendStay_past hr ha q.stay.toNat past st
    have bay : ((s.withRecord i { r with stay := q.stay.toNat, stayExhausted := false }).dropDeadline (.slot i)).bay b = s.bay b := rfl
    have charged (st : r.state = .charging) := State.stayRunsOut_charging out hb (r := { r with stay := q.stay.toNat, stayExhausted := false }) st
    have parked (st : r.state = .engaged) := State.stayRunsOut_engaged out hb (r := { r with stay := q.stay.toNat, stayExhausted := false }) st
    refine ⟨fun st at_ => ?_, fun st outOfService => ?_, fun st bound lawful => ?_⟩
    · refine end_ (.inl st) ?_ (now x _) fun _ => rfl
      rw [event (.inr st), parked st, bay, owed, graceTime]
      cases s.deadlineOf (.bay b) <;> simp [at_, takeRun] <;> rfl
    · refine end_ (.inl st) ?_ (now x _) fun _ => rfl
      rw [event (.inr st), parked st, bay, if_neg (by simp [outOfService])]
      rfl
    · intro z u
      have record : u.record i = some z := State.slots_endSession (s := at_ x others) bound (now x others) st true
      have clock : u.clock = s.clock := (at_ x others).clock_endSession b true false
      have lamps (h : (s.bay b).state = .charging → (s.bay b).aspect = .inUse) (y : BayNo) : (u.bay y).aspect = (s.bay y).aspect :=
        State.aspect_endSession (s := at_ x others) h true false y
      have after (v : State) (slots : v.slots = u.slots) : v.allocationRun.record i = some z := by
        rw [State.record_allocationRun, State.record_of_slots slots, record]
      refine ⟨fun charging => end_ (.inr st) ?_ (after _ rfl) fun y => ?_,
        fun outOfService => end_ (.inr st) ?_ (after _ rfl) fun y => ?_⟩
      · rw [event (.inl st), charged st, bay, if_pos charging, graceTime]
        simp only [takeRun, if_true]
        refine congrArg State.allocationRun ?_
        show State.startDeadline u .graceEnd (.bay b) plan.site.graceTime = _
        simp only [State.startDeadline, State.setDeadline, State.dueIn, clock]
        rfl
      · exact (State.aspect_allocationRun _ y).trans (lamps (fun _ => by rw [lawful.1, charging]; rfl) y)
      · rw [event (.inl st), charged st, bay, if_neg (by simp [outOfService])]
        simp only [takeRun, if_true]
        rfl
      · exact (State.aspect_allocationRun _ y).trans (lamps (fun h => absurd (h.symm.trans outOfService) (by decide)) y)

end

section
/-! SUPPORT. AMEND of the zone mask (R64): the record kept, placed or sent to wait, and the bay it leaves. -/

-- One proof after another: side by side, the package as one text takes a thread and its stack for each.
set_option Elab.async false

namespace Sys2Proof.Machine

variable {s t u : State} {i : SlotNo} {b y : BayNo} {r x : Reservation} {p g : BayPlan} {q : AmendReq}

/-! ### An offer leaves every live record live -/

theorem State.record_setMark (s : State) (i j : SlotNo) : (s.setMark i).record j = s.record j := by
  by_cases h : j = i
  · subst h; simp [State.setMark, State.record, State.slot, State.modSlot, State.evaluateChanges]
  · exact congrArg Slot.record (State.slot_modSlot_ne s i j (fun x => { x with mark := true }) h)

theorem State.isSome_record_holdAt (s : State) (i j : SlotNo) (b : BayNo) (hold : Nat) :
    ((s.holdAt i b hold).record j).isSome = (s.record j).isSome := by
  unfold State.holdAt State.bind
  simp only [record_startDeadline, record_enter, KeepsLive.record_modRecord_isSome, record_modFeederOf, record_modBay]

theorem State.isSome_record_placeWaiting (s : State) (i j : SlotNo) (b : BayNo) :
    ((s.placeWaiting i b).record j).isSome = (s.record j).isSome := by
  unfold State.placeWaiting
  split
  · rfl
  · rw [record_bump, State.record_setMark, State.isSome_record_holdAt, record_dropDeadline, record_leaveLists]

theorem State.isSome_record_offer (s : State) (i : SlotNo) (b : BayNo) :
    ((s.offer b).record i).isSome = (s.record i).isSome := by
  unfold State.offer
  split
  · rfl
  · dsimp only
    split
    · rw [State.isSome_record_placeWaiting]; rfl
    · rfl

/-! ### The mask of a WAITING record -/

section

variable (hr : s.record i = some r)
include hr

theorem State.amendMaskWaiting_lost {mask : ZoneMask} (lost : s.selectMasked r mask = none) :
    s.amendMaskWaiting i r mask = s.withRecord i { r with zoneMask := mask } := by
  unfold State.amendMaskWaiting
  rw [lost, State.modRecord_live hr]
  rfl

theorem State.amendMaskWaiting_found {mask : ZoneMask} (found : s.selectMasked r mask = some b)
    (hp : (s.bay b).place = some p) : s.amendMaskWaiting i r mask = { s with
      slots := s.slots.set i.val { s.slot i with record := some { r with zoneMask := mask, state := .held, bay := some b } }
      highList := s.highList.filter (· != i), normalList := s.normalList.filter (· != i)
      bays := s.bays.set b.val { s.bay b with state := .held, aspect := .reserved, reason := none, bound := some i }
      feeders := s.feeders.set p.feeder.val { s.feeder p.feeder with pledge := (s.feeder p.feeder).pledge + p.pmin }
      deadlines := insertByDue ⟨.holdEnd, .slot i, s.dueIn r.hold⟩ (s.deadlines.filter fun d => d.owner != .slot i) } := by
  have here : (((s.withRecord i { r with zoneMask := mask }).leaveLists i).dropDeadline (.slot i)).record i =
      some { r with zoneMask := mask } := s.record_withRecord i _
  have placed : ((((s.withRecord i { r with zoneMask := mask }).leaveLists i).dropDeadline (.slot i)).bay b).place = some p := hp
  unfold State.amendMaskWaiting
  rw [found, State.modRecord_live hr]
  refine (State.holdAt_planned r.hold here placed).trans ?_
  apply State.ext <;>
    simp [State.withRecord, State.leaveLists, State.dropDeadline, State.dueIn, State.slot, State.bay, State.feeder,
      List.filter_filter]

/-! ### The mask of a HELD record whose bay lies outside it -/

/-- The record is unbound from its bay, then held at the bay selection finds. -/
theorem State.amendMaskMoving_found {mask : ZoneMask} (hb : r.bay = some y) (hp : (s.bay y).place = some p)
    (found : s.selectMasked r mask = some b) :
    s.amendMaskMoving i r mask y =
      (((s.withRecord i { r with zoneMask := mask }).left i { r with zoneMask := mask } y p).holdAt i b r.hold).settleLeftBay y
        (s.bay y).state := by
  unfold State.amendMaskMoving
  rw [found, State.modRecord_live hr]
  exact congrArg (fun t => (State.holdAt t i b r.hold).settleLeftBay y (s.bay y).state)
    (State.unbind_drop_planned (s := s.withRecord i _) (s.record_withRecord i _) hb hp)

/-- The record is unbound from its bay, then waits. -/
theorem State.amendMaskMoving_lost {mask : ZoneMask} (hb : r.bay = some y) (hp : (s.bay y).place = some p)
    (lost : s.selectMasked r mask = none) :
    s.amendMaskMoving i r mask y =
      (((s.withRecord i { r with zoneMask := mask }).left i { r with zoneMask := mask } y p).startWaiting i r.wait).settleLeftBay y
        (s.bay y).state := by
  unfold State.amendMaskMoving
  rw [lost, State.modRecord_live hr]
  exact congrArg (fun t => (State.startWaiting t i r.wait).settleLeftBay y (s.bay y).state)
    (State.unbind_drop_planned (s := s.withRecord i _) (s.record_withRecord i _) hb hp)

end

/-- The bay a record has left: freed and offered if it was HELD. -/
theorem State.settleLeftBay_eq (before : BayState) :
    u.settleLeftBay y before = if before = .held then (u.enter y .free).offer y else u := rfl

theorem State.isSome_record_settleLeftBay (before : BayState) :
    ((u.settleLeftBay y before).record i).isSome = (u.record i).isSome := by
  unfold State.settleLeftBay State.freeAndOffer
  split
  · rw [State.isSome_record_offer, record_enter]
  · rfl

/-- A FREE bay that is lawful shows AVAILABLE and has no reason. -/
theorem Bay.lawful_free {x : Bay} (lawful : x.Lawful) (free : x.state = .free) : x.aspect = .available ∧ x.reason = none :=
  ⟨by rw [lawful.1, free]; rfl, Option.not_isSome_iff_eq_none.1 (by rw [lawful.2, free]; decide)⟩

theorem State.free_of_select {c : Claim} (found : s.select c = some b) : (s.bay b).state = .free := by
  have := State.placementTest_of_select found
  simp only [State.placementTest, Bool.and_eq_true, beq_iff_eq] at this
  exact this.1.2

end Sys2Proof.Machine

open Sys2Proof Sys2Proof.Machine

/-- Settles O13: the mask by the record's state, its bay and what selection finds. -/
theorem amendMask : Obligations.AmendMask := by
  unfold Obligations.AmendMask
  intro q s i r takes live noHold noStay noCap masked others at_ x holdEnd
  obtain ⟨-, hr, -⟩ := State.resolve_live live
  have applied : s.applyAmend q i r = s.amendMask i r q := by
    rw [State.applyAmend, if_pos noHold, if_pos noStay, if_pos noCap, if_neg masked, State.recordNow, hr]
    rfl
  have allowed (st : r.state = .waiting ∨ r.state = .held) : amendAllowed q r.state = true :=
    (amendAllowed_iff q r.state).2 ⟨fun h => absurd noHold h, fun h => absurd noStay h, fun _ => st⟩
  have now (z : Reservation) : (at_ z).record i = some z := s.record_withRecord i z
  have kept (stays : s.leavesBay q r = none) : s.maskStrands q r = false := by simp [State.maskStrands, stays]
  refine ⟨fun b p waiting unbound found hp lawful => ?_, fun waiting unbound lost => ?_, fun b p held hb hp inside => ?_,
    fun y p held hb hp outside => ?_⟩
  · intro z t
    have found' : s.selectMasked r q.mask = some b := by rw [State.selectMasked_eq, unbound]; exact found
    obtain ⟨lamp, unreasoned⟩ := Bay.lawful_free lawful (State.free_of_select found)
    have event : s.amendMask i r q = { t with lanes := s.lanes } := by
      unfold State.amendMask
      rw [waiting]
      refine (State.amendMaskWaiting_found hr found' hp).trans ?_
      rw [← unreasoned]
      rfl
    have record : State.record { t with lanes := s.lanes } i = some z := now z
    have lamps : State.aspectOrders s { t with lanes := s.lanes } = t :=
      State.aspectOrders_set (t := { t with lanes := s.lanes }) (b := b)
        (x := { s.bay b with state := .held, aspect := .reserved, bound := some i }) rfl (by simp [hp]) (by simp [lamp]) rfl rfl
    rw [State.amend_taken takes live (allowed (.inl waiting)) (kept (State.leavesBay_waiting waiting)) (applied.trans event)
      record, lamps]
    rfl
  · have lost' : s.selectMasked r q.mask = none := by rw [State.selectMasked_eq, unbound]; exact lost
    refine State.amend_taken_unlit takes live (allowed (.inl waiting)) (kept (State.leavesBay_waiting waiting))
      (applied.trans ?_) (now x) fun _ => rfl
    unfold State.amendMask
    rw [waiting]
    exact State.amendMaskWaiting_lost hr lost'
  · have stays : s.leavesBay q r = none := by rw [State.leavesBay_held masked held hb hp, if_pos inside]
    refine State.amend_taken_unlit takes live (allowed (.inr held)) (kept stays) (applied.trans ?_) (now x) fun _ => rfl
    unfold State.amendMask
    rw [held, stays]
    exact State.modRecord_live hr _
  · intro left ends found
    have leaves : s.leavesBay q r = some y := by rw [State.leavesBay_held masked held hb hp, if_neg (by rw [outside]; decide)]
    have selected : s.selectMasked r q.mask = found := by rw [State.selectMasked_eq, hb]; rfl
    have event : s.amendMask i r q = s.amendMaskMoving i r q.mask y := by
      unfold State.amendMask
      rw [held, leaves]
    have base : (s.withRecord i { r with zoneMask := q.mask }).left i { r with zoneMask := q.mask } y p =
        left { x with bay := none } others := by
      apply State.ext <;> simp [State.left, State.withRecord, left, at_, x, others, State.slot] <;> rfl
    have record : (left { x with bay := none } others).record i = some { x with bay := none } := now _
    have settle {u : State} {v : Reservation} (notStranded : s.maskStrands q r = false) (live' : u.record i = some v)
        (moved : s.amendMaskMoving i r q.mask y = u.settleLeftBay y (s.bay y).state) : ends u := by
      obtain ⟨z, hz⟩ := Option.isSome_iff_exists.1
        ((State.isSome_record_settleLeftBay (u := u) (i := i) (y := y) (s.bay y).state).trans (by rw [live']; rfl))
      exact ⟨z, hz, State.amend_taken takes live (allowed (.inr held)) notStranded (applied.trans (event.trans moved)) hz⟩
    refine ⟨fun b g found hg => ?_, fun lost wait => ?_, fun lost waitless => ?_⟩
    · intro u
      have placed : ((left { x with bay := none } others).bay b).place = some g := by
        show (State.bay { s with bays := s.bays.set y.val { s.bay y with bound := none, keptHold := false } } b).place = some g
        rw [State.bay_of_set rfl]
        split
        · rename_i same; rw [← hg, same]
        · exact hg
      refine settle (by simp [State.maskStrands, selected, found]) (now _) ?_
      · rw [State.amendMaskMoving_found hr hb hp (selected.trans found), base, State.holdAt_planned r.hold record placed]
        refine congrArg (State.settleLeftBay · y (s.bay y).state) ?_
        apply State.ext <;> simp [u, left, at_, x, others, State.slot, List.filter_filter] <;> rfl
    · intro older joined
      have age : s.outranks { x with bay := none } = older := by
        funext j
        rfl
      have mine (a : Reservation) (ha : s.record i = some a) : a.seq = r.seq ∧ a.created = r.created := by
        cases hr.symm.trans ha
        exact ⟨rfl, rfl⟩
      have others_ (j : SlotNo) (ne : j ≠ i) : (left { x with bay := none } others).record j = s.record j :=
        congrArg Slot.record (Vector.getElem_set_ne i.isLt j.isLt fun e : i.val = j.val => ne (Fin.ext e.symm))
      have strands : s.maskStrands q r = false := by simp [State.maskStrands, wait]
      refine settle strands (now _) ?_
      · rw [State.amendMaskMoving_lost hr hb hp (selected.trans lost), base,
          State.startWaiting_eq (s := s) (r := { x with bay := none }) record rfl rfl mine others_, age]
        refine congrArg (State.settleLeftBay · y (s.bay y).state) ?_
        apply State.ext <;> simp [left, at_, x, others, joined, State.slot, List.filter_filter] <;> rfl
    · have strands : s.maskStrands q r = true := by simp [State.maskStrands, leaves, selected, lost, waitless]
      have event : s.amend q = (s, ⟨.noBay, []⟩) := by
        simp [State.amend, live, allowed (.inr held), strands]
      rw [exec_amend takes, event]
      exact State.taken_of_bays rfl

end

section
/-! SUPPORT. AMEND of the hold seconds, the demand cap and of several fields (R61 to R63). The event of an AMEND is blind to the port:
a field asked in a request of its own changes what it changes among others. -/

-- One proof after another: side by side, the package as one text takes a thread and its stack for each.
set_option Elab.async false

namespace Sys2Proof.Machine

variable {s t u : State} {i : SlotNo} {b y : BayNo} {r x : Reservation} {q : AmendReq} {P : Port}

/-! ### The event of an AMEND is blind to the port -/

/-- `s` with another port. -/
def State.withPort (s : State) (P : Port) : State := { s with port := P }

section

variable (s : State)

@[simp] theorem State.plan_withPort : (s.withPort P).plan = s.plan := rfl
@[simp] theorem State.highList_withPort : (s.withPort P).highList = s.highList := rfl
@[simp] theorem State.normalList_withPort : (s.withPort P).normalList = s.normalList := rfl
@[simp] theorem State.ratioCount_withPort : (s.withPort P).ratioCount = s.ratioCount := rfl
@[simp] theorem State.clock_withPort : (s.withPort P).clock = s.clock := rfl
@[simp] theorem State.bay_withPort (b : BayNo) : (s.withPort P).bay b = s.bay b := rfl
@[simp] theorem State.grant_withPort (b : BayNo) : (s.withPort P).grant b = s.grant b := rfl
@[simp] theorem State.unit_withPort (b : BayNo) : (s.withPort P).unit b = s.unit b := rfl
@[simp] theorem State.record_withPort (i : SlotNo) : (s.withPort P).record i = s.record i := rfl
@[simp] theorem State.feederOf_withPort (b : BayNo) : (s.withPort P).feederOf b = s.feederOf b := rfl
@[simp] theorem State.onFeeder_withPort (f : FeederNo) (b : BayNo) : (s.withPort P).onFeeder f b = s.onFeeder f b := rfl
@[simp] theorem State.charging_withPort (b : BayNo) : (s.withPort P).charging b = s.charging b := rfl
@[simp] theorem State.sessionAt_withPort (b : BayNo) : (s.withPort P).sessionAt b = s.sessionAt b := rfl
@[simp] theorem State.deadlineOf_withPort (o : Owner) : (s.withPort P).deadlineOf o = s.deadlineOf o := rfl
@[simp] theorem State.pminOf_withPort (b : BayNo) : (s.withPort P).pminOf b = s.pminOf b := rfl
@[simp] theorem State.gateOpen_withPort (f : FeederNo) : (s.withPort P).gateOpen f = s.gateOpen f := rfl
@[simp] theorem State.older_withPort (i j : SlotNo) : (s.withPort P).older i j = s.older i j := rfl
@[simp] theorem State.graceTime_withPort : (s.withPort P).graceTime = s.graceTime := rfl
@[simp] theorem State.leavesBay_withPort (q : AmendReq) (r : Reservation) : (s.withPort P).leavesBay q r = s.leavesBay q r := rfl
@[simp] theorem State.selectMasked_withPort (r : Reservation) (m : ZoneMask) : (s.withPort P).selectMasked r m = s.selectMasked r m := rfl
@[simp] theorem State.fits_withPort (b : BayNo) : (s.withPort P).fits b = s.fits b := rfl

@[simp] theorem State.modBay_withPort (b : BayNo) (f : Bay → Bay) : (s.withPort P).modBay b f = (s.modBay b f).withPort P := rfl
@[simp] theorem State.enter_withPort (b : BayNo) (st : BayState) : (s.withPort P).enter b st = (s.enter b st).withPort P := rfl
@[simp] theorem State.modGrant_withPort (b : BayNo) (f : Grants → Grants) : (s.withPort P).modGrant b f = (s.modGrant b f).withPort P :=
  rfl
@[simp] theorem State.modLane_withPort (l : LaneNo) (f : Lane → Lane) : (s.withPort P).modLane l f = (s.modLane l f).withPort P :=
  rfl
@[simp] theorem State.modFeeder_withPort (f : FeederNo) (g : Feeder → Feeder) :
    (s.withPort P).modFeeder f g = (s.modFeeder f g).withPort P :=
  rfl
@[simp] theorem State.modRecord_withPort (i : SlotNo) (f : Reservation → Reservation) :
    (s.withPort P).modRecord i f = (s.modRecord i f).withPort P :=
  rfl
@[simp] theorem State.setMark_withPort (i : SlotNo) : (s.withPort P).setMark i = (s.setMark i).withPort P := rfl
@[simp] theorem State.leaveLists_withPort (i : SlotNo) : (s.withPort P).leaveLists i = (s.leaveLists i).withPort P := rfl
@[simp] theorem State.dropDeadline_withPort (o : Owner) : (s.withPort P).dropDeadline o = (s.dropDeadline o).withPort P := rfl
@[simp] theorem State.startDeadline_withPort (k : DeadlineKind) (o : Owner) (n : Nat) :
    (s.withPort P).startDeadline k o n = (s.startDeadline k o n).withPort P :=
  rfl
@[simp] theorem State.setDeadline_withPort (k : DeadlineKind) (o : Owner) (n : Nat) :
    (s.withPort P).setDeadline k o n = (s.setDeadline k o n).withPort P :=
  rfl
@[simp] theorem State.handGrant_withPort (b : BayNo) (v : Nat) (flag : OrderFlag) :
    (s.withPort P).handGrant b v flag = (s.handGrant b v flag).withPort P :=
  rfl
@[simp] theorem State.clearTarget_withPort (b : BayNo) : (s.withPort P).clearTarget b = (s.clearTarget b).withPort P := rfl

end

/-- A choice of two states with another port. -/
theorem State.ite_withPort {c : Prop} [Decidable c] (s t : State) :
    (if c then s else t).withPort P = if c then s.withPort P else t.withPort P := apply_ite (State.withPort · P) c s t

/-- A fold of updates blind to the port is blind to it. -/
theorem State.foldl_withPort {α : Type} {f : State → α → State} (h : ∀ s x, f (s.withPort P) x = (f s x).withPort P) (l : List α)
    (s : State) : l.foldl f (s.withPort P) = (l.foldl f s).withPort P :=
  List.foldl_hom (State.withPort · P) fun s x => h s x

@[simp] theorem State.bump_withPort (s : State) (c : Counter) : (s.withPort P).bump c = (s.bump c).withPort P := by
  rw [State.bump_eq_of (t := s.withPort P) (u := s) rfl rfl, State.bump_eq_of (t := s) (u := s) rfl rfl]
  rfl

@[simp] theorem State.modFeederOf_withPort (s : State) (b : BayNo) (g : Feeder → Feeder) :
    (s.withPort P).modFeederOf b g = (s.modFeederOf b g).withPort P := by
  unfold State.modFeederOf
  rw [State.feederOf_withPort]
  cases s.feederOf b <;> rfl

@[simp] theorem State.aspectOrder_withPort (s : State) (b : BayNo) (flash : Bool) :
    (s.withPort P).aspectOrder b flash = (s.aspectOrder b flash).withPort P := by
  simp [State.aspectOrder, State.ite_withPort]
  rfl

theorem State.aspectOrders_withPort (before s : State) :
    State.aspectOrders before (s.withPort P) = (State.aspectOrders before s).withPort P :=
  State.foldl_withPort (fun s b => by simp [State.ite_withPort]) _ s

theorem State.port_aspectOrders (before s : State) : (State.aspectOrders before s).port = s.port :=
  (s.sameOffLane_keepsLive.aspectOrders before s ⟨rfl, rfl, rfl, rfl⟩).1

theorem State.aspectOrders_from_withPort (before s : State) :
    State.aspectOrders (before.withPort P) s = State.aspectOrders before s := rfl

theorem State.reservationRecord_withPort (s : State) (i : SlotNo) (r : Reservation) :
    (s.withPort P).reservationRecord i r = s.reservationRecord i r := rfl

/-- A reply leaves nothing of the transaction before it. -/
theorem State.answered_withPort (s : State) (c : Instr) (status : Status) (body : List Byte) (sequence : P.sequence = s.port.sequence)
    (shifted : P.shifted = s.port.shifted) : (s.withPort P).answered c status body = s.answered c status body := by
  have reply : (s.withPort P).replyTo c status body = s.replyTo c status body := rfl
  unfold State.answered
  rw [reply]
  simp only [State.withReply, State.withPort, sequence, shifted]

/-! The allocation run -/

@[simp] theorem State.makeStop_withPort (s : State) (b : BayNo) : (s.withPort P).makeStop b = (s.makeStop b).withPort P := by
  unfold State.makeStop
  rw [State.grant_withPort]
  cases (s.grant b).outstanding <;> rfl

@[simp] theorem State.releaseIncrease_withPort (s : State) (b : BayNo) :
    (s.withPort P).releaseIncrease b = (s.releaseIncrease b).withPort P := by
  unfold State.releaseIncrease
  rw [State.grant_withPort]
  generalize (s.grant b).outstanding = o
  cases (s.grant b).heldBack <;> cases o <;> rfl

@[simp] theorem State.testGate_withPort (s : State) (f : FeederNo) :
    (s.withPort P).testGate f = (s.testGate f).withPort P := by
  have released : (s.withPort P).releaseIncreases f = (s.releaseIncreases f).withPort P :=
    State.foldl_withPort (fun s b => by simp [State.ite_withPort]) _ s
  simp [State.testGate, State.ite_withPort, released]

@[simp] theorem State.settleTarget_withPort (s : State) (b : BayNo) :
    (s.withPort P).settleTarget b = (s.settleTarget b).withPort P := by
  unfold State.settleTarget
  rw [State.grant_withPort]
  dsimp only
  cases (s.grant b).outstanding <;> simp [State.ite_withPort]

theorem State.settleTargets_withPort (s : State) : (s.withPort P).settleTargets = s.settleTargets.withPort P := by
  have discarded : (s.withPort P).discardIncreases = s.discardIncreases.withPort P :=
    State.foldl_withPort (fun s b => by simp [State.ite_withPort]; rfl) _ s
  unfold State.settleTargets
  rw [discarded]
  dsimp only
  rw [State.foldl_withPort fun s b => by simp [State.ite_withPort], State.foldl_withPort fun s f => s.testGate_withPort f]

theorem State.writeTarget_withPort (s : State) (x : Session) : (s.withPort P).writeTarget x = (s.writeTarget x).withPort P := by
  simp [State.writeTarget, State.ite_withPort]

theorem State.writeTargets_withPort (s : State) : (s.withPort P).writeTargets = s.writeTargets.withPort P := by
  unfold State.writeTargets
  dsimp only
  rw [State.foldl_withPort fun s b => by simp [State.ite_withPort]; rfl]
  exact State.foldl_withPort
    (fun u f => State.foldl_withPort State.writeTarget_withPort (shareSessions (s.feeder f).sessionBudget (s.sessionsOn f)) u) _ _

@[simp] theorem State.allocationRun_withPort (s : State) : (s.withPort P).allocationRun = s.allocationRun.withPort P := by
  have budgets : (s.withPort P).writeBudgets = s.writeBudgets.withPort P :=
    State.foldl_withPort (fun _ _ => rfl) _ { s with effective := s.siteBudget }
  unfold State.allocationRun
  rw [budgets, State.writeTargets_withPort, State.settleTargets_withPort]

theorem State.takeRun_withPort (s : State) (run : Bool) : takeRun (s.withPort P, run) = (takeRun (s, run)).withPort P := by
  simp [takeRun, State.ite_withPort]

/-! Records, bays and lists -/

@[simp] theorem State.endSession_withPort (s : State) (b : BayNo) (stop mark : Bool) :
    (s.withPort P).endSession b stop mark = (s.endSession b stop mark).withPort P := by
  unfold State.endSession
  rw [State.sessionAt_withPort]
  cases s.sessionAt b with
  | none => rfl
  | some i => cases mark <;> cases stop <;> simp [← State.ite_withPort]

@[simp] theorem State.holdAt_withPort (s : State) (i : SlotNo) (b : BayNo) (hold : Nat) :
    (s.withPort P).holdAt i b hold = (s.holdAt i b hold).withPort P := by
  simp [State.holdAt, State.bind]

@[simp] theorem State.unbind_withPort (s : State) (i : SlotNo) : (s.withPort P).unbind i = (s.unbind i).withPort P := by
  unfold State.unbind
  rw [State.record_withPort]
  cases (s.record i).bind (·.bay) <;> simp

theorem State.insertByAge_withPort (s : State) (i : SlotNo) (l : List SlotNo) :
    (s.withPort P).insertByAge i l = s.insertByAge i l := by
  induction l with
  | nil => rfl
  | cons j js ih => simp [State.insertByAge, ih]

@[simp] theorem State.startWaiting_withPort (s : State) (i : SlotNo) (wait : Nat) :
    (s.withPort P).startWaiting i wait = (s.startWaiting i wait).withPort P := by
  have joined (s : State) : (s.withPort P).joinList i = (s.joinList i).withPort P := by
    unfold State.joinList
    simp only [State.insertByAge_withPort, State.record_withPort, State.highList_withPort, State.normalList_withPort]
    cases s.record i with
    | none => rfl
    | some r =>
      dsimp only
      cases r.priority <;> rfl
  simp [State.startWaiting, joined]

@[simp] theorem State.offer_withPort (s : State) (b : BayNo) : (s.withPort P).offer b = (s.offer b).withPort P := by
  have placed (s : State) (i : SlotNo) : (s.withPort P).placeWaiting i b = (s.placeWaiting i b).withPort P := by
    unfold State.placeWaiting
    rw [State.record_withPort]
    cases s.record i <;> simp
  cases h : s.plan with
  | none =>
    unfold State.offer
    rw [State.plan_withPort, h]
  | some plan =>
    rw [State.offer_eq h, State.offer_eq (s := s.withPort P) h]
    simp only [State.highList_withPort, State.normalList_withPort, State.fits_withPort, State.ratioCount_withPort]
    generalize serveRatio plan.site.ratio s.ratioCount (s.highList.find? (s.fits b)) (s.normalList.find? (s.fits b)) = choice
    obtain ⟨served, count⟩ := choice
    cases served with
    | none => rfl
    | some i => exact placed { s with ratioCount := count } i

@[simp] theorem State.settleLeftBay_withPort (s : State) (y : BayNo) (before : BayState) :
    (s.withPort P).settleLeftBay y before = (s.settleLeftBay y before).withPort P := by
  simp [State.settleLeftBay, State.freeAndOffer, State.ite_withPort]

/-! The fields of an AMEND -/

theorem State.amendHold_withPort (s : State) (i : SlotNo) (hold : Nat) :
    (s.withPort P).amendHold i hold = (s.amendHold i hold).withPort P := by
  unfold State.amendHold
  rw [State.deadlineOf_withPort]
  cases s.deadlineOf (.slot i) <;> simp [State.ite_withPort]

theorem State.stayRunsOut_withPort (s : State) (i : SlotNo) (r : Reservation) (mark : Bool) :
    (s.withPort P).stayRunsOut i r mark = ((s.stayRunsOut i r mark).1.withPort P, (s.stayRunsOut i r mark).2) := by
  unfold State.stayRunsOut
  cases r.bay with
  | none => cases mark <;> rfl
  | some b =>
    dsimp only
    rw [State.bay_withPort]
    cases mark <;> cases r.state <;> cases (s.bay b).state <;> simp <;> split <;> rfl

theorem State.amendStay_withPort (s : State) (i : SlotNo) (r : Reservation) (stay : Nat) :
    (s.withPort P).amendStay i r stay = (s.amendStay i r stay).withPort P := by
  have expires (s : State) : (s.withPort P).stayExpires i false = (s.stayExpires i false).withPort P := by
    unfold State.stayExpires
    rw [State.record_withPort]
    cases s.record i with
    | none => rfl
    | some r =>
      dsimp only
      cases r.state <;> simp [State.stayRunsOut_withPort, State.takeRun_withPort]
  simp [State.amendStay, expires, State.ite_withPort]

theorem State.amendCap_withPort (s : State) (i : SlotNo) (cap : Option Nat) :
    (s.withPort P).amendCap i cap = (s.amendCap i cap).withPort P := by
  unfold State.amendCap
  rw [State.record_withPort]
  cases s.record i <;> simp [State.ite_withPort]

theorem State.amendMask_withPort (s : State) (i : SlotNo) (r : Reservation) (q : AmendReq) :
    (s.withPort P).amendMask i r q = (s.amendMask i r q).withPort P := by
  have waiting : (s.withPort P).amendMaskWaiting i r q.mask = (s.amendMaskWaiting i r q.mask).withPort P := by
    unfold State.amendMaskWaiting
    rw [State.selectMasked_withPort]
    cases s.selectMasked r q.mask <;> simp
  have moving (y : BayNo) : (s.withPort P).amendMaskMoving i r q.mask y = (s.amendMaskMoving i r q.mask y).withPort P := by
    unfold State.amendMaskMoving
    rw [State.selectMasked_withPort]
    cases s.selectMasked r q.mask <;> simp
  unfold State.amendMask
  rw [State.leavesBay_withPort]
  cases r.state <;> cases s.leavesBay q r <;> simp [waiting, moving]

theorem State.applyAmend_withPort (s : State) (q : AmendReq) (i : SlotNo) (r : Reservation) :
    (s.withPort P).applyAmend q i r = (s.applyAmend q i r).withPort P := by
  simp only [State.applyAmend, State.recordNow, ← State.ite_withPort, State.amendHold_withPort, State.amendStay_withPort,
    State.amendCap_withPort, State.amendMask_withPort, State.record_withPort]

/-- Whatever an AMEND does, the port is no part of it. -/
theorem State.port_applyAmend (s : State) (q : AmendReq) (i : SlotNo) (r : Reservation) : (s.applyAmend q i r).port = s.port :=
  (congrArg State.port (State.applyAmend_withPort (P := s.port) s q i r) :)

/-! ### Each field alone (R62, R63) -/

theorem State.amendHold_eq (hr : s.record i = some r) (hold : Nat) : s.amendHold i hold =
    { s.withRecord i { r with hold := hold } with
      deadlines :=
        if (s.deadlineOf (.slot i)).map (·.kind) = some .holdEnd then
          insertByDue ⟨.holdEnd, .slot i, min (s.clock + hold) 0xFFFFFFFF⟩ (s.deadlines.filter fun d => d.owner != .slot i)
        else s.deadlines } := by
  unfold State.amendHold
  rw [State.modRecord_live hr]
  cases s.deadlineOf (.slot i) with
  | none => rfl
  | some d =>
    dsimp only
    by_cases h : d.kind = .holdEnd
    · simp [h, State.withRecord, State.startDeadline, State.setDeadline, State.dueIn, satAdd, Config.max32]
    · simp [h, State.withRecord]

theorem State.amendCap_eq (hr : s.record i = some r) (cap : Option Nat) : s.amendCap i cap =
    if r.state = .charging then (s.withRecord i { r with cap := cap }).allocationRun else s.withRecord i { r with cap := cap } := by
  unfold State.amendCap
  rw [State.modRecord_live hr, hr]
  rfl

/-! ### Several fields (R61) -/

/-- `t` is `s` but for what a field of an AMEND other than the mask can change: slot `i` holds a record still, under the same ticket,
and no lamp is another. -/
structure State.Amends (s t : State) (i : SlotNo) : Prop where
  slot : ∃ x, t.slot i = { s.slot i with record := some x }
  lamps : ∀ b, (t.bay b).aspect = (s.bay b).aspect

theorem State.Amends.withRecord {x : Reservation} : s.Amends (s.withRecord i x) i where
  slot := ⟨x, by simp [State.withRecord, State.slot]⟩
  lamps _ := rfl

theorem State.Amends.of_eq (h : s.Amends t i) (slots : u.slots = t.slots) (bays : ∀ b, (u.bay b).aspect = (t.bay b).aspect) :
    s.Amends u i where
  slot := h.slot.imp fun x hx => by rw [← hx]; simp only [State.slot, slots]
  lamps b := (bays b).trans (h.lamps b)

theorem State.Amends.allocationRun (h : s.Amends t i) : s.Amends t.allocationRun i :=
  h.of_eq t.slots_allocationRun t.aspect_allocationRun

theorem State.Amends.modRecord (h : s.Amends t i) (j : SlotNo) (f : Reservation → Reservation) : s.Amends (t.modRecord j f) i where
  slot := by
    obtain ⟨x, hx⟩ := h.slot
    by_cases e : i = j
    · subst e
      refine ⟨f x, ?_⟩
      have : t.slots[i.val] = _ := hx
      simp [State.modRecord, State.modSlot, State.slot, this]
    · exact ⟨x, (State.slot_modSlot_ne t j i _ e).trans hx⟩
  lamps := h.lamps

theorem State.Amends.endSession (h : s.Amends t i) (stop : Bool)
    (lit : (s.bay b).state = .charging → (s.bay b).aspect = .inUse) (state : (t.bay b).state = (s.bay b).state) :
    s.Amends (t.endSession b stop false) i := by
  have lamps := State.aspect_endSession (s := t) (b := b) (by rw [state, h.lamps]; exact lit) stop false
  cases e : t.sessionAt b with
  | none => rw [State.endSession_idle (by simp [State.charging, e])]; exact h
  | some j =>
    refine (h.modRecord j fun r => { r with state := .engaged, session := none, sessionDone := true }).of_eq ?_ lamps
    unfold State.endSession
    rw [e]
    cases stop <;> simp <;> split <;> rfl

theorem State.Amends.stayRunsOut (h : s.Amends t i) (bays : t.bays = s.bays) (x : Reservation)
    (lit : ∀ b, x.bay = some b → (s.bay b).state = .charging → (s.bay b).aspect = .inUse) :
    s.Amends (t.stayRunsOut i x false).1 i := by
  have exhausted := h.modRecord i fun x => { x with stayExhausted := true }
  unfold State.stayRunsOut
  cases hb : x.bay with
  | none => exact exhausted
  | some b =>
    have ended := exhausted.endSession true (lit b hb) (by
      show (t.bay b).state = _
      rw [State.bay, bays]
      rfl)
    simp only [Bool.false_eq_true, if_false]
    split
    · exact ended.of_eq rfl fun _ => rfl
    · exact ended
    · split
      · exact exhausted
      · exact exhausted.of_eq rfl fun _ => rfl
    · exact exhausted

theorem State.amendStay_amends (hr : s.record i = some r) (lawful : ∀ b, r.bay = some b → (s.bay b).Lawful) (stay : Nat) :
    s.Amends (s.amendStay i r stay) i := by
  have lit (b : BayNo) (hb : r.bay = some b) (charging : (s.bay b).state = .charging) : (s.bay b).aspect = .inUse := by
    rw [(lawful b hb).1, charging]
    rfl
  unfold State.amendStay
  rw [State.modRecord_live hr]
  dsimp only
  have base : s.Amends (s.withRecord i { r with stay := stay, stayExhausted := false }) i := .withRecord
  split
  · exact base.of_eq rfl fun _ => rfl
  · unfold State.stayExpires
    split
    · exact base.of_eq rfl fun _ => rfl
    · rename_i x hx
      have same : { r with stay := stay, stayExhausted := false } = x :=
        Option.some.inj ((s.record_withRecord i _).symm.trans hx)
      have ran : s.Amends (takeRun (State.stayRunsOut ((s.withRecord i { r with stay := stay, stayExhausted := false }).dropDeadline
          (.slot i)) i x false)) i := by
        have out := (base.of_eq (u := (s.withRecord i { r with stay := stay, stayExhausted := false }).dropDeadline (.slot i)) rfl
          fun _ => rfl).stayRunsOut rfl x (by rw [← same]; exact lit)
        unfold takeRun
        split
        · exact out.allocationRun
        · exact out
      split
      · exact ran
      · exact ran
      all_goals exact base.of_eq rfl fun _ => rfl

theorem State.Amends.amendHold (h : s.Amends t i) (hold : Nat) : s.Amends (t.amendHold i hold) i := by
  have written := h.modRecord i fun x => { x with hold := hold }
  unfold State.amendHold
  dsimp only
  split
  · split
    · exact written.of_eq rfl fun _ => rfl
    · exact written
  · exact written

theorem State.Amends.amendCap (h : s.Amends t i) (cap : Option Nat) : s.Amends (t.amendCap i cap) i := by
  have written := h.modRecord i fun x => { x with cap := cap }
  unfold State.amendCap
  dsimp only
  split
  · split
    · exact written.allocationRun
    · exact written
  · exact written

theorem State.Amends.refl (hr : s.record i = some r) : s.Amends s i where
  slot := ⟨r, by rw [← hr]; rfl⟩
  lamps _ := rfl

theorem State.Amends.resolve {k : BitVec 16} (h : s.Amends t i) (live : s.resolve k = .live i r) :
    ∃ x, t.record i = some x ∧ t.resolve k = .live i x := by
  obtain ⟨x, hx⟩ := h.slot
  obtain ⟨slot, -, generation⟩ := State.resolve_live live
  refine ⟨x, by rw [State.record, hx], ?_⟩
  simp [State.resolve, slot, hx, generation]

/-- A new mask leaves the record live. -/
theorem State.isSome_record_amendMask (s : State) (i : SlotNo) (r : Reservation) (q : AmendReq) :
    ((s.amendMask i r q).record i).isSome = (s.record i).isSome := by
  have joined (t : State) : (t.joinList i).record i = t.record i := by
    unfold State.joinList
    split
    · rfl
    · split <;> rfl
  unfold State.amendMask
  split
  · unfold State.amendMaskWaiting
    dsimp only
    split
    · rw [State.isSome_record_holdAt, record_dropDeadline, record_leaveLists, KeepsLive.record_modRecord_isSome]
    · rw [KeepsLive.record_modRecord_isSome]
  · unfold State.amendMaskMoving State.startWaiting
    dsimp only
    rw [State.isSome_record_settleLeftBay]
    split
    · rw [State.isSome_record_holdAt, record_dropDeadline, KeepsLive.record_unbind_isSome, KeepsLive.record_modRecord_isSome]
    · rw [record_startDeadline, joined, KeepsLive.record_modRecord_isSome, record_dropDeadline, KeepsLive.record_unbind_isSome,
        KeepsLive.record_modRecord_isSome]
  · rw [KeepsLive.record_modRecord_isSome]

/-- The hold seconds and the demand cap are no business of the mask's test. -/
theorem State.maskStrands_beside (s : State) (q : AmendReq) (r : Reservation) (slots : Vector Slot 1024) (ds : List Deadline)
    (hold : Nat) (cap : Option Nat) :
    ({ s with slots := slots, deadlines := ds } : State).maskStrands q { r with hold := hold, cap := cap } = s.maskStrands q r := rfl

theorem State.aspectOrders_congr {v : State} (h : ∀ b, (u.bay b).aspect = (s.bay b).aspect) :
    State.aspectOrders u v = State.aspectOrders s v := by
  simp only [State.aspectOrders, h]

/-- An AMEND asked of a state whose port holds it, and whatever else of the transaction before. -/
theorem State.ask_amend (live : s.resolve q.ticket = .live i r) (allowed : amendAllowed q r.state = true)
    (kept : s.maskStrands q r = false) (applied : s.applyAmend q i r = t) (now : t.record i = some x)
    (request : P.request = some (.amend q)) (sequence : P.sequence = s.port.sequence) (shifted : P.shifted = s.port.shifted) :
    exec (.amend q) (s.withPort P) = .next ((State.aspectOrders s t).answered (.amend q) .ok (t.reservationRecord i x)) := by
  have event : (s.withPort P).applyAmend q i r = t.withPort P := by rw [State.applyAmend_withPort, applied]
  have port : (State.aspectOrders s t).port = s.port := by
    rw [State.port_aspectOrders, ← applied, State.port_applyAmend]
  have answer (u : State) (hu : u.port = s.port) : (u.withPort P).answered (.amend q) .ok (t.reservationRecord i x) =
      u.answered (.amend q) .ok (t.reservationRecord i x) :=
    u.answered_withPort _ _ _ (sequence.trans (congrArg Port.sequence hu.symm)) (shifted.trans (congrArg Port.shifted hu.symm))
  have kept' : (s.withPort P).maskStrands q r = false := by simpa [State.maskStrands] using kept
  rw [State.amend_taken (s := s.withPort P) request live allowed kept' event now, State.aspectOrders_from_withPort,
    State.aspectOrders_withPort, State.reservationRecord_withPort, answer _ port]

/-- The same where no lamp changes, the answer said for another AMEND. -/
theorem State.ask_amend_unlit {c : AmendReq} (live : s.resolve c.ticket = .live i r)
    (allowed : (c.holdPresent ≠ 0 → r.state = .held) ∧ (c.stayPresent ≠ 0 → r.state = .engaged ∨ r.state = .charging) ∧
      (c.maskPresent ≠ 0 → r.state = .waiting ∨ r.state = .held))
    (kept : s.maskStrands c r = false) (applied : s.applyAmend c i r = t) (now : t.record i = some x)
    (lamps : ∀ b, (t.bay b).aspect = (s.bay b).aspect)
    (request : P.request = some (.amend c)) (sequence : P.sequence = s.port.sequence) (shifted : P.shifted = s.port.shifted) :
    exec (.amend c) (s.withPort P) = .next (t.answered (.amend q) .ok (t.reservationRecord i x)) := by
  rw [State.ask_amend live ((amendAllowed_iff c r.state).2 allowed) kept applied now request sequence shifted,
    aspectOrders_same _ _ fun b _ => lamps b]
  rfl

/-- Whether a new mask strands a HELD record: its bay lies outside the mask, selection finds none, and it cannot wait (R61, R64). -/
theorem State.maskStrands_held {p : BayPlan} (masked : q.maskPresent ≠ 0) (held : r.state = .held) (hb : r.bay = some y)
    (hp : (s.bay y).place = some p) : s.maskStrands q r = true ↔ q.mask.getLsbD p.zone.val = false ∧
      s.select { ({ r with zoneMask := q.mask } : Reservation).claim with leaving := some y } = none ∧ r.wait = 0 := by
  rw [State.maskStrands, State.leavesBay_held masked held hb hp, State.selectMasked_eq, hb, Bool.and_eq_true, Bool.and_eq_true,
    Option.isNone_iff_eq_none, beq_iff_eq, and_assoc]
  refine and_congr ?_ .rfl
  cases q.mask.getLsbD p.zone.val <;> simp

end Sys2Proof.Machine

open Sys2Proof Sys2Proof.Machine

/-- Settles O11: each field alone, and several in their order, each of which leaves the ticket live and no lamp changed before the
mask. -/
theorem amendAppliesItsFieldsInOrder : Obligations.AmendAppliesItsFieldsInOrder := by
  unfold Obligations.AmendAppliesItsFieldsInOrder
  refine ⟨?_, ?_⟩
  · intro q s i r takes live noStay noMask at_
    obtain ⟨-, hr, -⟩ := State.resolve_live live
    have taken (hold : q.holdPresent ≠ 0 → r.state = .held) {t : State} {x : Reservation} (applied : s.applyAmend q i r = t)
        (now : t.record i = some x) (lamps : ∀ b, (t.bay b).aspect = (s.bay b).aspect) :=
      State.amend_taken_unlit takes live
        ((amendAllowed_iff q r.state).2 ⟨hold, fun h => absurd noStay h, fun h => absurd noMask h⟩)
        (State.maskStrands_unmasked noMask) applied now lamps
    have now (x : Reservation) : (at_ x).record i = some x := s.record_withRecord i x
    refine ⟨fun noHold noCap => ?_, fun holds noCap held => ?_, fun noHold caps => ?_⟩
    · exact taken (absurd noHold) (by simp [State.applyAmend, noHold, noStay, noCap, noMask]) hr fun _ => rfl
    · intro x t
      refine taken (fun _ => held) ?_ (now x) fun _ => rfl
      simp only [State.applyAmend, holds, noStay, noCap, noMask, if_true, if_false]
      exact State.amendHold_eq hr _
    · intro x t
      have event : s.applyAmend q i r = t := by
        simp only [State.applyAmend, noHold, noStay, caps, noMask, if_true, if_false]
        exact State.amendCap_eq hr _
      by_cases charging : r.state = .charging
      · have run : t = (at_ x).allocationRun := if_pos charging
        refine taken (absurd noHold) event ?_ ?_
        · rw [run, State.record_allocationRun, now]
        · rw [run]
          exact State.aspect_allocationRun _
      · have run : t = at_ x := if_neg charging
        refine taken (absurd noHold) event ?_ ?_
        · rw [run, now]
        · rw [run]
          exact fun _ => rfl
  · intro q s i r takes live holds stays masks strands ask none_
    obtain ⟨-, hr, -⟩ := State.resolve_live live
    have allowed : amendAllowed q r.state = true := (amendAllowed_iff q r.state).2 ⟨holds, stays, masks⟩
    refine ⟨fun stranded => ?_, fun free bays => ?_⟩
    · have stranded' : s.maskStrands q r = true := by
        obtain ⟨masked, held, wait, y, p, hb, hp, outside, lost⟩ := stranded
        exact (State.maskStrands_held masked held hb hp).2 ⟨outside, lost, wait⟩
      have event : s.amend q = (s, ⟨.noBay, []⟩) := by simp [State.amend, live, allowed, stranded']
      rw [exec_amend takes, event]
      exact State.taken_of_bays rfl
    · have kept : s.maskStrands q r = false := by
        by_contra stranded
        rw [Bool.not_eq_false] at stranded
        have leaves : (s.leavesBay q r).isSome := by
          simp only [State.maskStrands, Bool.and_eq_true] at stranded
          exact stranded.1.1
        have masked : q.maskPresent ≠ 0 := fun h => by simp [State.leavesBay_unmasked h] at leaves
        have held : r.state = .held := by
          by_contra h
          simp [State.leavesBay, h] at leaves
        obtain ⟨y, hb⟩ : ∃ y, r.bay = some y := Option.ne_none_iff_exists'.1 fun h => by simp [State.leavesBay, h] at leaves
        obtain ⟨p, hp⟩ := Option.ne_none_iff_exists'.1 (bays y hb).1
        obtain ⟨outside, lost, wait⟩ := (State.maskStrands_held masked held hb hp).1 stranded
        exact free ⟨masked, held, wait, y, p, hb, hp, outside, lost⟩
      let v₁ := if q.holdPresent = 0 then s else s.amendHold i q.hold.toNat
      let v₂ := if q.stayPresent = 0 then v₁ else v₁.amendStay i r q.stay.toNat
      let v₃ := if q.capAction = 0 then v₂ else v₂.amendCap i (if q.capAction = 1 then some q.cap.toNat else none)
      let v₄ := if q.maskPresent = 0 then v₃ else v₃.amendMask i (v₃.recordNow i r) q
      have noHold (stay : q.stayPresent ≠ 0) : q.holdPresent = 0 := by
        by_contra hold
        rcases stays stay with st | st <;> cases (holds hold).symm.trans st
      have a₁ : s.Amends v₁ i := by
        simp only [v₁]
        split
        · exact .refl hr
        · exact (State.Amends.refl hr).amendHold _
      have a₂ : s.Amends v₂ i := by
        by_cases stay : q.stayPresent = 0
        · have same : v₂ = v₁ := if_pos stay
          rw [same]
          exact a₁
        · have same : v₂ = s.amendStay i r q.stay.toNat := by simp only [v₂, v₁, if_neg stay, if_pos (noHold stay)]
          rw [same]
          exact State.amendStay_amends hr (fun b hb => (bays b hb).2) _
      have a₃ : s.Amends v₃ i := by
        simp only [v₃]
        split
        · exact a₂
        · exact a₂.amendCap _
      obtain ⟨r₁, hr₁, live₁⟩ := a₁.resolve live
      obtain ⟨r₂, hr₂, live₂⟩ := a₂.resolve live
      obtain ⟨r₃, hr₃, live₃⟩ := a₃.resolve live
      have live₄ : (v₄.record i).isSome := by
        simp only [v₄]
        split
        · rw [hr₃]; rfl
        · rw [State.isSome_record_amendMask, hr₃]; rfl
      obtain ⟨r₄, hr₄⟩ := Option.isSome_iff_exists.1 live₄
      have beside₁ (stay : q.stayPresent ≠ 0) : v₁ = s ∧ r₁ = r := by
        have same : v₁ = s := if_pos (noHold stay)
        rw [same, hr] at hr₁
        exact ⟨same, (Option.some.inj hr₁).symm⟩
      have beside₃ (mask : q.maskPresent ≠ 0) : (r₃.state = .waiting ∨ r₃.state = .held) ∧ v₃.maskStrands q r₃ = false := by
        have noStay : q.stayPresent = 0 := by
          by_contra stay
          rcases stays stay with st | st <;> simp [st] at masks <;> exact mask masks
        have notCharging : r.state ≠ .charging := fun st => by rcases masks mask with h | h <;> cases st.symm.trans h
        have one : ∃ slots ds hold, v₁ = { s with slots := slots, deadlines := ds } ∧
            v₁.record i = some { r with hold := hold } := by
          by_cases hold : q.holdPresent = 0
          · have same : v₁ = s := if_pos hold
            exact ⟨s.slots, s.deadlines, r.hold, same, same ▸ hr⟩
          · have same : v₁ = s.amendHold i q.hold.toNat := if_neg hold
            rw [same, State.amendHold_eq hr]
            exact ⟨_, _, _, rfl, s.record_withRecord i _⟩
        have two : v₂ = v₁ := if_pos noStay
        obtain ⟨slots, ds, hold, cap, same, record⟩ : ∃ slots ds hold cap, v₃ = { s with slots := slots, deadlines := ds } ∧
            v₃.record i = some { r with hold := hold, cap := cap } := by
          obtain ⟨slots, ds, hold, same, record⟩ := one
          by_cases cap : q.capAction = 0
          · have kept : v₃ = v₁ := (if_pos cap).trans two
            exact ⟨slots, ds, hold, r.cap, kept.trans same, kept ▸ record⟩
          · have capped : v₃ = v₁.amendCap i (if q.capAction = 1 then some q.cap.toNat else none) := (if_neg cap).trans (by rw [two])
            rw [capped, State.amendCap_eq record, if_neg notCharging]
            exact ⟨_, _, hold, _, by rw [same]; rfl, State.record_withRecord _ i _⟩
        cases hr₃.symm.trans record
        rw [same, State.maskStrands_beside]
        exact ⟨masks mask, kept⟩
      refine ⟨v₁.answered (.amend q) .ok (v₁.reservationRecord i r₁), v₂.answered (.amend q) .ok (v₂.reservationRecord i r₂),
        v₃.answered (.amend q) .ok (v₃.reservationRecord i r₃),
        (State.aspectOrders s v₄).answered (.amend q) .ok (v₄.reservationRecord i r₄), ?_, ?_, ?_, ?_, ?_⟩
      · refine State.ask_amend_unlit (s := s) (P := { s.port with request := some (.amend { none_ with holdPresent := q.holdPresent }) })
          live ⟨holds, absurd rfl, absurd rfl⟩ (State.maskStrands_unmasked rfl) ?_ hr₁ a₁.lamps rfl rfl rfl
        simp [State.applyAmend, none_, v₁]
      · refine State.ask_amend_unlit (s := v₁)
          (P := { (v₁.answered (.amend q) .ok (v₁.reservationRecord i r₁)).port with
            request := some (.amend { none_ with stayPresent := q.stayPresent }) })
          live₁ ⟨absurd rfl, fun stay => by rw [(beside₁ stay).2]; exact stays stay, absurd rfl⟩
          (State.maskStrands_unmasked rfl) ?_ hr₂
          (fun b => (a₂.lamps b).trans (a₁.lamps b).symm) rfl rfl rfl
        by_cases stay : q.stayPresent = 0
        · simp [State.applyAmend, none_, v₂, stay]
        · simp [State.applyAmend, none_, v₂, (beside₁ stay).2]
      · refine State.ask_amend_unlit (s := v₂)
          (P := { (v₂.answered (.amend q) .ok (v₂.reservationRecord i r₂)).port with
            request := some (.amend { none_ with capAction := q.capAction }) })
          live₂ ⟨absurd rfl, absurd rfl, absurd rfl⟩ (State.maskStrands_unmasked rfl) ?_ hr₃
          (fun b => (a₃.lamps b).trans (a₂.lamps b).symm) rfl rfl rfl
        simp [State.applyAmend, none_, v₃]
      · have asked := State.ask_amend (s := v₃) (q := { none_ with maskPresent := q.maskPresent })
          (P := { (v₃.answered (.amend q) .ok (v₃.reservationRecord i r₃)).port with
            request := some (.amend { none_ with maskPresent := q.maskPresent }) })
          (t := v₄) live₃ ?_ ?_ ?_ hr₄ rfl rfl rfl
        · rw [State.aspectOrders_congr a₃.lamps] at asked
          exact asked
        · exact (amendAllowed_iff _ _).2 ⟨absurd rfl, absurd rfl, fun mask => (beside₃ mask).1⟩
        · by_cases mask : q.maskPresent = 0
          · exact State.maskStrands_unmasked mask
          · exact (beside₃ mask).2
        · simp only [State.applyAmend, none_, v₄, State.recordNow, hr₃, if_true, Option.getD_some]
          rfl
      · exact State.amend_taken takes live allowed kept rfl hr₄

end

section
/-! SUPPORT. Presentations (R83 to R93): the case a presentation falls under, and the record the part creates itself. -/

-- One proof after another: side by side, the package as one text takes a thread and its stack for each.
set_option Elab.async false

namespace Sys2Proof.Machine

variable {s : State} {i : SlotNo} {b y : BayNo} {r : Reservation} {p : BayPlan} {plan : Plan} {c : Credential}

/-! ### The case of a presentation (R84) -/

theorem State.present_elsewhere (h : (s.bay b).state ≠ .identifying) (h' : (s.bay b).state ≠ .blocked) : s.present b c = s := by
  unfold State.present
  split
  · next st => exact absurd st h
  · next st => exact absurd st h'
  all_goals rfl

/-- A bay that identifies nobody in particular takes the rows below the kept hold's. -/
theorem State.present_unheld
    (h : (s.bay b).state = .identifying ∧ (s.bay b).keptHold = false ∨ (s.bay b).state = .blocked) :
    s.present b c = s.presentUnheld b c := by
  unfold State.present
  rcases h with ⟨st, unheld⟩ | st
  · simp only [st, unheld, Bool.false_eq_true, if_false]
  · simp only [st]

theorem State.present_expected (st : (s.bay b).state = .identifying) (kept : (s.bay b).keptHold = true)
    (live : s.findLive c = some i) (bound : (s.bay b).bound = some i) : s.present b c = s.matchedArrival b i := by
  unfold State.present
  simp only [st, kept, live, bound, if_true]

theorem State.present_unexpected (st : (s.bay b).state = .identifying) (kept : (s.bay b).keptHold = true)
    (bound : (s.bay b).bound = some i) (other : s.findLive c ≠ some i) : s.present b c = s.wrongBay b := by
  unfold State.present
  simp only [st, kept, if_true]
  split
  · next j live => exact if_neg fun e => other (by rw [live, ← e, bound])
  · rfl

theorem State.presentUnheld_known (live : s.findLive c = some i) (hr : s.record i = some r) :
    s.presentUnheld b c = match r.state with
      | .held => s.migrate b i r
      | .waiting => s.waitingArrival b i r
      | .engaged | .charging | .overstay => s.refusePresentation b := by
  unfold State.presentUnheld
  simp only [live, hr] <;> rfl

theorem State.presentUnheld_unknown (unknown : s.findLive c = none) (hplan : s.plan = some plan) :
    s.presentUnheld b c = match longestPrefix plan.allotments c with
      | some (n, a) => s.allotmentArrival plan.site b c n a
      | none => s.walkIn plan.site b c := by
  unfold State.presentUnheld
  simp only [unknown, hplan] <;> rfl

/-! ### A migration (R87, R88) -/

theorem State.isSome_record_engage (s : State) (i j : SlotNo) (b : BayNo) :
    ((s.engage i b).record j).isSome = (s.record j).isSome := by
  unfold State.engage State.bind
  split
  · rfl
  · dsimp only
    rw [State.record_setMark, record_startDeadline, KeepsLive.record_modRecord_isSome, record_modBay, record_dropDeadline]
    split
    · rfl
    · rw [record_modFeederOf, record_modBay, KeepsLive.record_modRecord_isSome]

/-- A record HELD at a planned bay that passes the bay test leaves it and is engaged here; then the left bay is settled. -/
theorem State.migrate_passes (hr : s.record i = some r) (hb : r.bay = some y) (hp : (s.bay y).place = some p)
    (passes : s.presentationTest { r.claim with leaving := some y } b = true) :
    s.migrate b i r =
      (((((s.left i r y p).engage i b).modRecord i fun x => { x with migrations := min (x.migrations + 1) 255 }).bump
        .migrations).settleLeftBay y (s.bay y).state) := by
  unfold State.migrate
  rw [hb, if_pos passes, State.unbind_drop_planned hr hb hp]
  rfl

/-! ### The record the part creates itself (R52) -/

/-- The record of a presentation, before it is engaged. -/
def State.arrival (s : State) (plan : Plan) (c : Credential) (cls : VehicleClass) (entry : Option Nat) : Reservation :=
  { state := .waiting, credential := c, cls := cls, large := false, zoneMask := 0xFF
    priority := match cls with | .accessible => .high | .pub => .normal | .fleet => plan.site.fleetPriority
    hold := plan.site.defaultHold, wait := plan.site.defaultWait, stay := plan.site.defaultStay, cap := none
    bay := none, allotment := entry, seq := s.bookingSeq, created := s.creations, arrivedAt := none
    session := none, sessionDone := false, stayExhausted := false, migrations := 0 }

theorem State.newRecord_newArrival (hplan : s.plan = some plan) (c : Credential) (cls : VehicleClass) (entry : Option Nat) :
    s.newRecord (newArrival plan.site c cls entry) = s.arrival plan c cls entry := by
  simp only [State.newRecord, newArrival, State.arrival, State.priorityOf_plan hplan] <;> rfl

/-- A new record is admitted while a slot is FREE. -/
theorem State.admitNew_head {rest : List SlotNo} (hplan : s.plan = some plan) (head : s.freeSlots = i :: rest) (c : Credential)
    (cls : VehicleClass) (entry : Option Nat) (counted : Counter) :
    s.admitNew b (newArrival plan.site c cls entry) counted =
      ((s.takeSlot i rest (s.arrival plan c cls entry)).engage i b).bump counted := by
  simp only [State.admitNew, State.create_head _ head, State.newRecord_newArrival hplan]

theorem State.admitNew_full (full : s.freeSlots = []) (n : NewRecord) (counted : Counter) :
    s.admitNew b n counted = s.refusePresentation b := by
  simp only [State.admitNew, State.create, full]

/-! ### The walk-in (R92) -/

theorem State.walkInAllowed_iff (hplan : s.plan = some plan) (hp : (s.bay b).place = some p) (k : Claim) (unbound : k.leaving = none) :
    s.walkInAllowed plan.site b k = true ↔
      plan.zones[p.zone.val].walkInOpen = true ∧ plan.zones[p.zone.val].closed = false ∧ (p.kind = .standard ∨ p.kind = .large) ∧
        (∀ a ∈ plan.allotments, a.exclusive = true → ¬(a.firstBay ≤ b.val ∧ b.val < a.firstBay + a.count)) ∧
        (s.feeder p.feeder).pledge + p.pmin ≤
          (match plan.feeders.find? (·.number == p.feeder) with | some f => f.limit | none => 0) ∧
        plan.site.walkInReserve < s.freeSlots.length := by
  have exclusive : (s.exclusiveAt b).isEmpty = true ↔
      ∀ a ∈ plan.allotments, a.exclusive = true → ¬(a.firstBay ≤ b.val ∧ b.val < a.firstBay + a.count) := by
    rw [State.exclusiveAt_eq_nil_iff hplan]
    simp only [not_exists, not_and, ← Allotment.covers_iff, List.mem_iff_getElem?]
    exact ⟨fun h a ⟨n, ha⟩ => h n a ha, fun h n a ha => h a ⟨n, ha⟩⟩
  have pledge : s.pledgeFor k p.feeder = (s.feeder p.feeder).pledge := by simp only [State.pledgeFor, unbound]
  simp only [State.walkInAllowed, hp, State.zone, hplan, Option.map_some, Bool.and_eq_true, exclusive, State.pledgeTest, pledge,
    State.feederLimit_plan hplan, decide_eq_true_eq, Bool.or_eq_true, beq_iff_eq, Bool.not_eq_true', and_assoc]
  rfl

/-! ### A vehicle at a bay held for someone else (R93) -/

theorem State.wrongBay_held (bound : (s.bay b).bound = some i) (hr : s.record i = some r) (held : r.state = .held) :
    s.wrongBay b =
      (State.rehome { s.refusePresentation b with
        bays := s.bays.set b.val { s.bay b with state := .blocked, aspect := .inUse, reason := none }
        deadlines := s.deadlines.filter fun d => d.owner != .bay b
        notices := (s.refusePresentation b).notices.raise .bayAlert } i).modBay b fun x => { x with keptHold := false } := by
  have same : ((((s.refusePresentation b).dropDeadline (.bay b)).enter b .blocked).raise .bayAlert) =
      { s.refusePresentation b with
        bays := s.bays.set b.val { s.bay b with state := .blocked, aspect := .inUse, reason := none }
        deadlines := s.deadlines.filter fun d => d.owner != .bay b
        notices := (s.refusePresentation b).notices.raise .bayAlert } := by
    have bays : (s.refusePresentation b).bays = s.bays := by
      rw [State.refusePresentation, State.bays_bump, State.aspectOrder_eq]
    have deadlines : (s.refusePresentation b).deadlines = s.deadlines := by
      rw [State.refusePresentation, State.deadlines_bump, State.aspectOrder_eq]
    apply State.ext <;>
      simp [State.raise, State.enter, State.modBay, State.dropDeadline, Bay.enter, BayState.aspect, bays, deadlines, State.bay]
  have slots : (s.refusePresentation b).slots = s.slots := by
    rw [State.refusePresentation, State.slots_bump, State.aspectOrder_eq]
  unfold State.wrongBay
  rw [same, State.rehomeHeldAt_held (i := i) (r := r) ?_ ?_ held]
  · simp [State.bay, ← bound]
  · exact (State.record_of_slots slots i).trans hr

end Sys2Proof.Machine

open Sys2Proof Sys2Proof.Machine

/-- Settles O26: the case by the bay's state, the live record of the credential and the allotment entry it falls under. -/
theorem presentationsAreJudged : Obligations.PresentationsAreJudged := by
  unfold Obligations.PresentationsAreJudged
  intro s b c plan hplan identifying unheld refused withRecord others arrival created
  refine ⟨State.present_elsewhere, fun i st kept live bound => State.present_expected st kept live bound, ?_, ?_, ?_, ?_, ?_, ?_⟩
  · intro i r y p open_ live hr held hb hp
    have event : s.present b c = s.migrate b i r := by
      rw [State.present_unheld open_, State.presentUnheld_known live hr, held]
    by_cases passes : s.presentationTest { r.claim with leaving := some y } b = true
    · rw [if_pos passes]
      intro left here
      have record : left.record i = some { r with bay := none } := s.record_withRecord i _
      obtain ⟨z, hz⟩ : ∃ z, here.record i = some z :=
        Option.isSome_iff_exists.1 ((State.isSome_record_engage left i i b).trans (by rw [record]; rfl))
      refine ⟨z, hz, ?_⟩
      rw [event, State.migrate_passes hr hb hp passes]
      show State.settleLeftBay ((here.modRecord i _).bump .migrations) y _ = _
      rw [State.modRecord_live hz]
      rfl
    · rw [if_neg passes, event]
      refine if_neg ?_
      rw [hb]
      exact passes
  · intro i r open_ live hr waiting
    rw [State.present_unheld open_, State.presentUnheld_known live hr, waiting]
    rfl
  · intro i r open_ live hr parked
    rw [State.present_unheld open_, State.presentUnheld_known live hr]
    rcases parked with st | st | st <;> simp only [st] <;> rfl
  · intro n a open_ unknown entry r passes
    have event : s.present b c = s.allotmentArrival plan.site b c n a := by
      rw [State.present_unheld open_, State.presentUnheld_unknown unknown hplan, entry]
    have tested : (a.covers b && s.presentationTest (newArrival plan.site c a.cls (some n)).claim b) = true ↔ passes := by
      rw [Bool.and_eq_true, Allotment.covers_iff, and_assoc]
      rfl
    refine ⟨fun i rest pass head => ?_, fun fails => ?_⟩
    · rw [event]
      refine (if_pos (tested.2 pass)).trans ?_
      exact State.admitNew_head hplan head c a.cls (some n) .arrivalsMatched
    · rw [event]
      unfold State.allotmentArrival
      dsimp only
      split
      · next pass => exact State.admitNew_full (fails.resolve_left (not_not_intro (tested.1 pass))) _ _
      · rfl
  · intro p open_ unknown entry hp limit allowed
    have event : s.present b c = s.walkIn plan.site b c := by
      rw [State.present_unheld open_, State.presentUnheld_unknown unknown hplan, entry]
    have tested : s.walkInAllowed plan.site b (newArrival plan.site c .pub none).claim = true ↔ allowed :=
      State.walkInAllowed_iff hplan hp _ rfl
    refine ⟨fun barred => ?_, fun i rest pass head => ?_⟩
    · rw [event]
      exact if_neg fun h => barred (tested.1 h)
    · rw [event]
      refine (if_pos (tested.2 pass)).trans ?_
      exact State.admitNew_head hplan head c .pub none .walkinsAdmitted
  · intro h y st kept bound hr held other u v
    rw [State.present_unexpected st kept bound other, State.wrongBay_held bound hr held]
    rfl

end

section
/-! SUPPORT. The end of a plan load (R8 to R16): the plan handed over as complete, the stage it fails, and one bay settled by its class. -/

-- One proof after another: side by side, the package as one text takes a thread and its stack for each.
set_option Elab.async false

namespace Sys2Proof.Machine

variable {s : State} {b : BayNo} {x old : BayPlan} {plan : Plan} {c : Instr} {body whole : List Byte} {count : Nat}

/-! ### The class of a bay (R10) -/

theorem BayPlan.differs_iff (x y : BayPlan) : x.differs y = true ↔
    ¬(x.zone = y.zone ∧ x.feeder = y.feeder ∧ x.kind = y.kind ∧ x.pmin = y.pmin ∧ x.pmax = y.pmax) := by
  simp only [BayPlan.differs, Bool.or_eq_true, bne_iff_ne, ne_eq]
  tauto

theorem State.changeOf_removed (hp : (s.bay b).place = some old) (gone : plan.bay b = none) :
    s.changeOf plan b = .removed := by simp only [State.changeOf, bayChange, hp, gone]

theorem State.changeOf_added (hp : (s.bay b).place = none) (new : plan.bay b = some x) : s.changeOf plan b = .added := by
  simp only [State.changeOf, bayChange, hp, new]

theorem State.changeOf_kept (hp : (s.bay b).place = some old) (new : plan.bay b = some x) :
    s.changeOf plan b = if old.differs x then .changed else .none := by simp only [State.changeOf, bayChange, hp, new]

theorem State.changeOf_unplanned (hp : (s.bay b).place = none) (new : plan.bay b = none) : s.changeOf plan b = .none := by
  simp only [State.changeOf, bayChange, hp, new]

/-! ### One bay settled (R14 to R16) -/

theorem State.settleBay_removed (hp : (s.bay b).place = some old) (gone : plan.bay b = none) :
    State.settleBay plan s b = s.removeBay b := by
  unfold State.settleBay
  rw [State.changeOf_removed hp gone]

theorem State.settleBay_added (hp : (s.bay b).place = none) (new : plan.bay b = some x) :
    State.settleBay plan s b = s.addBay b x := by
  unfold State.settleBay
  rw [State.changeOf_added hp new, new]

theorem State.settleBay_changed (hp : (s.bay b).place = some old) (new : plan.bay b = some x) (differs : old.differs x = true) :
    State.settleBay plan s b = s.changeBay b x := by
  unfold State.settleBay
  rw [State.changeOf_kept hp new, if_pos differs, new]

theorem State.settleBay_same (same : s.changeOf plan b = .none) : State.settleBay plan s b = s := by
  unfold State.settleBay
  rw [same]

/-- A bay that moves its stranded grant from one feeder to the one its new record names. -/
theorem State.changeBay_eq (hp : (s.bay b).place = some old) :
    s.changeBay b x = ({ s.modFeeder old.feeder fun f => { f with stranded := f.stranded - (s.grant b).stranded } with
      bays := s.bays.set b.val { s.bay b with place := some x } } : State).modFeeder x.feeder
        fun f => { f with stranded := f.stranded + (s.grant b).stranded } := by
  unfold State.changeBay
  dsimp only
  rw [State.modFeederOf_planned hp]
  rfl

/-! ### The plan handed over as complete (R183) -/

/-- A plan handed over as complete: the only segment of a sequence, or the last that fits an open one. -/
def State.Completes (s : State) (c : Instr) (body whole : List Byte) (count : Nat) : Prop :=
  c = .loadPlanOnly body ∧ whole = body ∧ count = 1 ∨
    ∃ n, c = .loadPlanLast body ∧ s.port.sequence = some n ∧ n < 64 ∧ s.staged.length + body.length ≤ 16384 ∧
      whole = s.staged ++ body ∧ count = n + 1

/-- The state the Plan Store checks a completed plan in: staged whole, the sequence closed. -/
def State.handedOver (s : State) (whole : List Byte) : State :=
  { s with staged := whole, port := { s.port with sequence := none } }

theorem State.Completes.exec_eq (h : s.Completes c body whole count) (takes : s.takes c) : exec c s =
    .next (((s.handedOver whole).completePlan count).1.answered c ((s.handedOver whole).completePlan count).2.status
      ((s.handedOver whole).completePlan count).2.body) := by
  rcases h with ⟨rfl, rfl, rfl⟩ | ⟨n, rfl, sequence, few, short, rfl, rfl⟩
  · exact exec_loadPlanOnly _ takes
  · have fits : s.segmentFits n body = true := by
      simp only [State.segmentFits, Bool.and_eq_true, decide_eq_true_eq]
      exact ⟨few, short⟩
    have event : s.lastSegment body = (s.handedOver (s.staged ++ body)).completePlan (n + 1) := by
      simp only [State.lastSegment, sequence, fits, if_true]
      rfl
    rw [exec_loadPlanLast _ takes, event]

/-! ### The stages of the check (R9 to R11) -/

theorem State.completePlan_invalid {check item : Nat} (fault : (readPlan s.staged).firstFault = some (check, item)) :
    s.completePlan count = (s.endCompletion, ⟨.planInvalid, le 1 count ++ le 1 check ++ le 2 item⟩) := by
  simp only [State.completePlan, fault]

theorem State.completePlan_conflict (sound : (readPlan s.staged).firstFault = none)
    (first : allBays.find? (s.conflicts (readPlan s.staged).plan) = some b) :
    s.completePlan count = (s.endCompletion, ⟨.planConflict, le 1 count ++ le 2 b.val⟩) := by
  simp only [State.completePlan, sound, first]

theorem State.completePlan_pledged {f : FeederNo} (sound : (readPlan s.staged).firstFault = none)
    (free : allBays.find? (s.conflicts (readPlan s.staged).plan) = none)
    (first : allFeeders.find? (s.pledgeAbove (readPlan s.staged).plan) = some f) :
    s.completePlan count = (s.endCompletion, ⟨.pledgeConflict, le 1 count ++ le 1 f.val⟩) := by
  simp only [State.completePlan, sound, free, first]

theorem Bay.isProtected_iff (y : Bay) : y.isProtected = true ↔ y.bound ≠ none ∨
    ¬(y.state = .free ∨ y.state = .outOfService ∧ (y.reason = some .operator ∨ y.reason = some .unheard)) := by
  rw [Bay.isProtected, Bool.or_eq_true, Bool.not_eq_true', ← Bool.not_eq_true, Bool.or_eq_true, Bool.and_eq_true, Bool.or_eq_true,
    beq_iff_eq, beq_iff_eq, beq_iff_eq, beq_iff_eq, Option.isSome_iff_ne_none]

/-- Whether a bay makes a plan PLAN_CONFLICT: planned, removed or changed, and protected (R10). -/
theorem State.conflicts_iff (s : State) (plan : Plan) (b : BayNo) : s.conflicts plan b = true ↔
    ∃ old, (s.bay b).place = some old ∧
      (∀ new, plan.bays.find? (·.number == b) = some new →
        ¬(new.zone = old.zone ∧ new.feeder = old.feeder ∧ new.kind = old.kind ∧ new.pmin = old.pmin ∧ new.pmax = old.pmax)) ∧
      ((s.bay b).bound ≠ none ∨ ¬((s.bay b).state = .free ∨ (s.bay b).state = .outOfService ∧
        ((s.bay b).reason = some .operator ∨ (s.bay b).reason = some .unheard))) := by
  rw [State.conflicts, Bool.and_eq_true, Bay.isProtected_iff]
  show _ ↔ ∃ old, _ ∧ (∀ new, plan.bay b = some new → _) ∧ _
  cases hp : (s.bay b).place with
  | none => cases hn : plan.bay b <;> simp [State.changeOf, bayChange, hp, hn]
  | some old =>
    cases hn : plan.bay b with
    | none => simp [State.changeOf_removed hp hn]
    | some new =>
      have differs : (s.changeOf plan b == .removed || s.changeOf plan b == .changed) = true ↔ old.differs new = true := by
        rw [State.changeOf_kept hp hn]
        cases old.differs new <;> decide
      rw [differs, BayPlan.differs_iff]
      simp only [Option.some.injEq, exists_eq_left', forall_eq', eq_comm]

theorem pairwise_lt_allFeeders : allFeeders.Pairwise (· < ·) := by
  rw [← finRange_feeders]
  exact List.pairwise_lt_finRange 16

theorem State.pledgeAbove_iff (s : State) (plan : Plan) (f : FeederNo) : s.pledgeAbove plan f = true ↔
    ∃ x, plan.feeders.find? (·.number == f) = some x ∧ x.limit < (s.feeder f).pledge := by
  unfold State.pledgeAbove
  cases plan.feeders.find? (·.number == f) <;> simp

end Sys2Proof.Machine

open Sys2Proof Sys2Proof.Machine

/-- Settles O34: the class of the bay, and what each class does to it. -/
theorem anApplySettlesEachBay : Obligations.AnApplySettlesEachBay := by
  intro plan s b new same
  refine ⟨fun old hp gone => ?_, fun old x hp hn differs apart => ?_, fun old x hp hn differs one held => ?_,
    fun x hp hn => ?_, fun untouched => ?_⟩
  · intro l
    rw [State.settleBay_removed hp gone]
    unfold State.removeBay
    dsimp only
    rw [State.modFeederOf_planned hp]
    rfl
  · rw [State.settleBay_changed hp hn ((old.differs_iff x).2 differs), State.changeBay_eq hp]
    have ne : old.feeder.val ≠ x.feeder.val := fun h => apart (Fin.ext h)
    simp [State.modFeeder, State.feeder, ne]
  · rw [State.settleBay_changed hp hn ((old.differs_iff x).2 differs), State.changeBay_eq hp, one]
    have back : s.feeders[x.feeder.val].stranded - (s.grant b).stranded + (s.grant b).stranded =
        s.feeders[x.feeder.val].stranded := Nat.sub_add_cancel held
    apply State.ext <;> simp only [State.modFeeder]
    simp only [Vector.getElem_set_self, Vector.set_set, back]
    exact Vector.set_getElem_self _
  · rw [State.settleBay_added hp hn]
    rfl
  · refine State.settleBay_same ?_
    rcases untouched with ⟨hp, hn⟩ | ⟨old, x, hp, hn, equal⟩
    · exact State.changeOf_unplanned hp hn
    · rw [State.changeOf_kept hp hn, if_neg fun h => (old.differs_iff x).1 h equal]

/-- Settles O32: the first stage that fails answers, and the completion leaves the rest alone. -/
theorem aRefusedPlanChangesNothing : Obligations.ARefusedPlanChangesNothing := by
  intro c body whole count s takes completes plan t conflict below
  have taken := State.Completes.exec_eq completes takes
  have conflict_iff (b : BayNo) : (s.handedOver whole).conflicts plan b = true ↔ conflict b := s.conflicts_iff plan b
  have below_iff (f : FeederNo) : (s.handedOver whole).pledgeAbove plan f = true ↔ below f := s.pledgeAbove_iff plan f
  refine ⟨fun check item fault => ?_, fun b sound clash least => ?_, fun f sound free low least => ?_⟩
  · rw [taken, State.completePlan_invalid fault]
    rfl
  · have first : allBays.find? ((s.handedOver whole).conflicts plan) = some b :=
      find?_eq_some_of_least pairwise_lt_allBays (mem_allBays b) ((conflict_iff b).2 clash)
        fun x _ hx => not_lt.1 fun lt => least x lt ((conflict_iff x).1 hx)
    rw [taken, State.completePlan_conflict sound first]
    rfl
  · have nobody : allBays.find? ((s.handedOver whole).conflicts plan) = none :=
      List.find?_eq_none.2 fun b _ hb => free b ((conflict_iff b).1 hb)
    have first : allFeeders.find? ((s.handedOver whole).pledgeAbove plan) = some f :=
      find?_eq_some_of_least pairwise_lt_allFeeders (mem_allFeeders f) ((below_iff f).2 low)
        fun x _ hx => not_lt.1 fun lt => least x lt ((below_iff x).1 hx)
    rw [taken, State.completePlan_pledged sound nobody first]
    rfl

end

section
/-! SUPPORT. The apply of a plan that passes (R13 to R17): the bays settled one by one, the monitors taken up, what the offers and the
lanes' first exchanges leave as it was. -/

-- One proof after another: side by side, the package as one text takes a thread and its stack for each.
set_option Elab.async false

namespace Sys2Proof.Machine

variable {s t u : State} {b : BayNo} {x old : BayPlan} {plan : Plan} {i : SlotNo}

/-! ### Events of the lanes alone (R23, R155) -/

/-- `t` differs from `s` in its lanes alone. -/
def State.LanesOf (s t : State) : Prop := { t with lanes := s.lanes } = s

theorem State.LanesOf.refl (s : State) : s.LanesOf s := rfl

theorem State.LanesOf.aspectOrders (before : State) (h : s.LanesOf t) : s.LanesOf (State.aspectOrders before t) := by
  refine foldl_keeps (P := s.LanesOf) _ (fun u b hu => ?_) _ _ h
  split
  · rw [State.aspectOrder_eq]
    exact hu
  · exact hu

theorem State.LanesOf.chooseNext (h : s.LanesOf t) (l : LaneNo) : s.LanesOf (t.chooseNext l) := by
  have polled : s.LanesOf (t.pollOrIdle l) := by
    unfold State.pollOrIdle
    split <;> exact h
  unfold State.chooseNext
  dsimp only
  split
  · exact polled
  · split
    · exact h
    · split
      · exact h
      · exact polled

theorem State.LanesOf.startIdleLanes (h : s.LanesOf t) : s.LanesOf t.startIdleLanes := by
  refine foldl_keeps (P := s.LanesOf) _ (fun u l hu => ?_) _ _ h
  split
  · exact hu.chooseNext l
  · exact hu

theorem State.LanesOf.plan_eq (h : s.LanesOf t) : t.plan = s.plan := (congrArg State.plan h :)
theorem State.LanesOf.staged (h : s.LanesOf t) : t.staged = s.staged := (congrArg State.staged h :)
theorem State.LanesOf.port (h : s.LanesOf t) : t.port = s.port := (congrArg State.port h :)
theorem State.LanesOf.clock (h : s.LanesOf t) : t.clock = s.clock := (congrArg State.clock h :)
theorem State.LanesOf.curtailment (h : s.LanesOf t) : t.curtailment = s.curtailment := (congrArg State.curtailment h :)
theorem State.LanesOf.snapshot (h : s.LanesOf t) : t.snapshot = s.snapshot := (congrArg State.snapshot h :)
theorem State.LanesOf.notices (h : s.LanesOf t) : t.notices = s.notices := (congrArg State.notices h :)
theorem State.LanesOf.slots (h : s.LanesOf t) : t.slots = s.slots := (congrArg State.slots h :)
theorem State.LanesOf.feeder (h : s.LanesOf t) (f : FeederNo) : t.feeder f = s.feeder f := (congrArg (State.feeder · f) h :)
theorem State.LanesOf.bay (h : s.LanesOf t) (b : BayNo) : t.bay b = s.bay b := (congrArg (State.bay · b) h :)

/-! ### The bays settled one by one -/

/-- What an apply leaves of one bay (R14 to R16). -/
def settledBay (plan : Plan) (b : BayNo) (y : Bay) : Bay :=
  match y.place, plan.bay b with
  | some _, none => {}
  | none, some x => ({ place := some x } : Bay).takenOut .unheard
  | some old, some x => if old.differs x then { y with place := some x } else y
  | none, none => y

theorem isSome_place_settledBay (plan : Plan) (b : BayNo) (y : Bay) :
    (settledBay plan b y).place.isSome = (plan.bays.find? (·.number == b)).isSome := by
  show _ = (plan.bay b).isSome
  unfold settledBay
  cases hp : y.place <;> cases hn : plan.bay b
  · simp [hp]
  · rfl
  · rfl
  · next old x =>
    by_cases differs : old.differs x = true
    · simp [differs]
    · simp [differs, hp]

/-- The bays of a plan have its records' data; a bay that was planned keeps its metered power. -/
theorem settledBay_planned {y : Bay} {z : BayPlan} (hx : (settledBay plan b y).place = some x)
    (hz : plan.bays.find? (·.number == b) = some z) :
    (x.zone = z.zone ∧ x.feeder = z.feeder ∧ x.kind = z.kind ∧ x.pmin = z.pmin ∧ x.pmax = z.pmax) ∧
      (settledBay plan b y).metered = if y.place.isSome then y.metered else 0 := by
  have new : plan.bay b = some z := hz
  cases hp : y.place with
  | none =>
    have added : settledBay plan b y = ({ place := some z } : Bay).takenOut .unheard := by simp only [settledBay, hp, new]
    rw [added] at hx ⊢
    cases hx
    exact ⟨⟨rfl, rfl, rfl, rfl, rfl⟩, rfl⟩
  | some old =>
    have kept : settledBay plan b y = if old.differs z then { y with place := some z } else y := by simp only [settledBay, hp, new]
    rw [kept] at hx ⊢
    by_cases differs : old.differs z = true
    · rw [if_pos differs] at hx ⊢
      cases hx
      exact ⟨⟨rfl, rfl, rfl, rfl, rfl⟩, rfl⟩
    · rw [if_neg differs] at hx ⊢
      cases hp.symm.trans hx
      exact ⟨not_not.1 fun h => differs ((BayPlan.differs_iff _ z).2 h), rfl⟩

theorem State.bay_settleBay (s : State) (plan : Plan) (b y : BayNo) :
    (State.settleBay plan s b).bay y = if y = b then settledBay plan b (s.bay b) else s.bay y := by
  have elsewhere (t : State) (f : Feeder → Feeder) (z : BayNo) : (t.modFeederOf b f).bay z = t.bay z := t.bay_modFeederOf b f z
  cases hp : (s.bay b).place with
  | none =>
    cases hn : plan.bay b with
    | none =>
      rw [State.settleBay_same (State.changeOf_unplanned hp hn)]
      simp only [settledBay, hp, hn]
      split
      · next e => rw [e]
      · rfl
    | some x =>
      rw [State.settleBay_added hp hn]
      simp only [settledBay, hp, hn]
      exact State.bay_of_set rfl y
  | some old =>
    cases hn : plan.bay b with
    | none =>
      rw [State.settleBay_removed hp hn, State.removeBay, State.modFeederOf_planned hp]
      simp only [settledBay, hp, hn]
      exact State.bay_of_set rfl y
    | some x =>
      simp only [settledBay, hp, hn]
      by_cases differs : old.differs x = true
      · rw [State.settleBay_changed hp hn differs, State.changeBay_eq hp, if_pos differs]
        exact State.bay_of_set rfl y
      · rw [State.settleBay_same (by rw [State.changeOf_kept hp hn, if_neg differs]), if_neg differs]
        split
        · next e => rw [e]
        · rfl

/-- The bays settled in any order, each once: each by what it was. -/
theorem State.bay_foldl_settleBay (plan : Plan) (l : List BayNo) (distinct : l.Nodup) (s : State) (y : BayNo) :
    (l.foldl (State.settleBay plan) s).bay y = if y ∈ l then settledBay plan y (s.bay y) else s.bay y := by
  induction l generalizing s with
  | nil => simp
  | cons b l ih =>
    obtain ⟨fresh, distinct⟩ := List.nodup_cons.1 distinct
    rw [List.foldl_cons, ih distinct, State.bay_settleBay]
    by_cases h : y = b
    · subst h
      simp [fresh]
    · simp [h]

/-- `t` differs from `s` in bays, grants, units, lanes and stranded grants alone. -/
structure State.Resettled (s t : State) : Prop where
  monitor : ∀ f, (t.feeder f).monitor = (s.feeder f).monitor
  rest : { t with bays := s.bays, grants := s.grants, units := s.units, feeders := s.feeders, lanes := s.lanes } = s

theorem State.Resettled.ratioCount (h : s.Resettled t) : t.ratioCount = s.ratioCount := (congrArg State.ratioCount h.rest :)
theorem State.Resettled.plan_eq (h : s.Resettled t) : t.plan = s.plan := (congrArg State.plan h.rest :)
theorem State.Resettled.staged (h : s.Resettled t) : t.staged = s.staged := (congrArg State.staged h.rest :)
theorem State.Resettled.port (h : s.Resettled t) : t.port = s.port := (congrArg State.port h.rest :)
theorem State.Resettled.clock (h : s.Resettled t) : t.clock = s.clock := (congrArg State.clock h.rest :)
theorem State.Resettled.curtailment (h : s.Resettled t) : t.curtailment = s.curtailment := (congrArg State.curtailment h.rest :)
theorem State.Resettled.snapshot (h : s.Resettled t) : t.snapshot = s.snapshot := (congrArg State.snapshot h.rest :)
theorem State.Resettled.slots (h : s.Resettled t) : t.slots = s.slots := (congrArg State.slots h.rest :)
theorem State.Resettled.slot (h : s.Resettled t) (i : SlotNo) : t.slot i = s.slot i := (congrArg (State.slot · i) h.rest :)
theorem State.Resettled.highList (h : s.Resettled t) : t.highList = s.highList := (congrArg State.highList h.rest :)
theorem State.Resettled.normalList (h : s.Resettled t) : t.normalList = s.normalList := (congrArg State.normalList h.rest :)

theorem State.Resettled.modFeeder (h : s.Resettled t) (f : FeederNo) (g : Feeder → Feeder)
    (kept : ∀ x, (g x).monitor = x.monitor) : s.Resettled (t.modFeeder f g) := by
  refine ⟨fun y => ?_, h.rest⟩
  by_cases e : y = f
  · subst e
    rw [State.feeder_modFeeder_self, kept, h.monitor]
  · rw [State.feeder_modFeeder_ne _ _ _ _ e, h.monitor]

theorem State.Resettled.modFeederOf (h : s.Resettled t) (b : BayNo) (g : Feeder → Feeder)
    (kept : ∀ x, (g x).monitor = x.monitor) : s.Resettled (t.modFeederOf b g) := by
  unfold State.modFeederOf
  split
  · exact h.modFeeder _ g kept
  · exact h

theorem State.Resettled.modBay (h : s.Resettled t) (b : BayNo) (f : Bay → Bay) : s.Resettled (t.modBay b f) :=
  ⟨h.monitor, h.rest⟩
theorem State.Resettled.modGrant (h : s.Resettled t) (b : BayNo) (f : Grants → Grants) : s.Resettled (t.modGrant b f) :=
  ⟨h.monitor, h.rest⟩
theorem State.Resettled.modUnit (h : s.Resettled t) (b : BayNo) (f : BayUnit → BayUnit) : s.Resettled (t.modUnit b f) :=
  ⟨h.monitor, h.rest⟩
theorem State.Resettled.modLane (h : s.Resettled t) (l : LaneNo) (f : Lane → Lane) : s.Resettled (t.modLane l f) :=
  ⟨h.monitor, h.rest⟩

theorem State.Resettled.settleBay (h : s.Resettled t) (plan : Plan) (b : BayNo) : s.Resettled (State.settleBay plan t b) := by
  unfold State.settleBay
  split
  · unfold State.removeBay
    refine State.Resettled.modLane (State.Resettled.modBay (State.Resettled.modUnit (State.Resettled.modGrant ?_ b _) b _) b _) _ _
    exact h.modFeederOf b (fun f => { f with stranded := f.stranded - (t.grant b).stranded }) fun _ => rfl
  · exact ((h.modFeederOf b (fun f => { f with stranded := f.stranded - (t.grant b).stranded }) fun _ => rfl).modBay b _).modFeeder _
      (fun f => { f with stranded := f.stranded + (t.grant b).stranded }) fun _ => rfl
  · exact ((h.modGrant b _).modUnit b _).modBay b _
  · exact h

theorem State.resettled_foldl (plan : Plan) (l : List BayNo) (s : State) : s.Resettled (l.foldl (State.settleBay plan) s) :=
  foldl_keeps _ (fun _ b h => h.settleBay plan b) _ _ ⟨fun _ => rfl, rfl⟩

/-! ### The monitors taken up (R16, R143, R144) -/

theorem foldl_modFeeder_eq (g : FeederNo → Feeder → Feeder) (l : List FeederNo) (s : State) :
    l.foldl (fun t f => t.modFeeder f (g f)) s = { s with feeders := (l.foldl (fun t f => t.modFeeder f (g f)) s).feeders } := by
  induction l generalizing s with
  | nil => rfl
  | cons f l ih => rw [List.foldl_cons, ih]; rfl

theorem feeder_foldl_modFeeder (g : FeederNo → Feeder → Feeder) (l : List FeederNo) (distinct : l.Nodup) (s : State)
    (y : FeederNo) :
    (l.foldl (fun t f => t.modFeeder f (g f)) s).feeder y = if y ∈ l then g y (s.feeder y) else s.feeder y := by
  induction l generalizing s with
  | nil => simp
  | cons f l ih =>
    obtain ⟨fresh, distinct⟩ := List.nodup_cons.1 distinct
    rw [List.foldl_cons, ih distinct]
    by_cases h : y = f
    · subst h
      simp [fresh]
    · simp [h, State.feeder_modFeeder_ne _ _ _ _ h]

/-- Every feeder changed by its own update. -/
theorem foldl_modFeeder_allFeeders (g : FeederNo → Feeder → Feeder) (s : State) :
    allFeeders.foldl (fun t f => t.modFeeder f (g f)) s = { s with feeders := Vector.ofFn fun f => g f (s.feeder f) } := by
  rw [foldl_modFeeder_eq]
  congr 1
  apply Vector.ext
  intro k hk
  have := feeder_foldl_modFeeder g allFeeders nodup_allFeeders s ⟨k, hk⟩
  rw [if_pos (mem_allFeeders _)] at this
  simpa [State.feeder] using this

theorem State.takeUpFeeders_eq (s : State) (plan : Plan) : s.takeUpFeeders plan = { s with
    feeders := Vector.ofFn fun f => { s.feeder f with
      monitor := newMonitor (plan.feeders.find? (·.number == f)) (s.loadOf f) (s.feeder f).monitor } } :=
  foldl_modFeeder_allFeeders
    (fun f x => { x with monitor := newMonitor (plan.feeders.find? (·.number == f)) (s.loadOf f) x.monitor }) s

/-! ### What an offer leaves as it was -/

/-- What of a record no placement changes. -/
def Reservation.owner (r : Reservation) : Credential × Option Nat := (r.credential, r.allotment)

/-- `t` has the plan data and metered powers of the bays of `s`, its monitors, and its records' credentials and entries. -/
structure State.SameGround (s t : State) : Prop where
  place : ∀ b, (t.bay b).place = (s.bay b).place
  metered : ∀ b, (t.bay b).metered = (s.bay b).metered
  monitor : ∀ f, (t.feeder f).monitor = (s.feeder f).monitor
  owner : ∀ i, (t.record i).map Reservation.owner = (s.record i).map Reservation.owner

namespace State.SameGround

theorem refl (s : State) : s.SameGround s := ⟨fun _ => rfl, fun _ => rfl, fun _ => rfl, fun _ => rfl⟩

theorem of_parts (h : s.SameGround t) (bays : u.bays = t.bays) (feeders : u.feeders = t.feeders) (slots : u.slots = t.slots) :
    s.SameGround u where
  place b := by simp only [State.bay, bays]; exact h.place b
  metered b := by simp only [State.bay, bays]; exact h.metered b
  monitor f := by simp only [State.feeder, feeders]; exact h.monitor f
  owner i := by rw [State.record_of_slots slots]; exact h.owner i

theorem modBay (h : s.SameGround t) (b : BayNo) (f : Bay → Bay) (place : ∀ y, (f y).place = y.place)
    (metered : ∀ y, (f y).metered = y.metered) : s.SameGround (t.modBay b f) := by
  have here (y : BayNo) : ((t.modBay b f).bay y).place = (t.bay y).place ∧ ((t.modBay b f).bay y).metered = (t.bay y).metered := by
    by_cases e : y = b
    · subst e
      rw [State.bay_modBay_self]
      exact ⟨place _, metered _⟩
    · rw [State.bay_modBay_ne _ _ _ _ e]
      exact ⟨rfl, rfl⟩
  exact ⟨fun y => (here y).1.trans (h.place y), fun y => (here y).2.trans (h.metered y), h.monitor, h.owner⟩

theorem modFeederOf (h : s.SameGround t) (b : BayNo) (g : Feeder → Feeder) (kept : ∀ x, (g x).monitor = x.monitor) :
    s.SameGround (t.modFeederOf b g) := by
  unfold State.modFeederOf
  split
  · next f _ =>
    refine ⟨h.place, h.metered, fun y => ?_, h.owner⟩
    by_cases e : y = f
    · subst e
      rw [State.feeder_modFeeder_self, kept, h.monitor]
    · rw [State.feeder_modFeeder_ne _ _ _ _ e, h.monitor]
  · exact h

theorem modRecord (h : s.SameGround t) (i : SlotNo) (f : Reservation → Reservation) (kept : ∀ r, (f r).owner = r.owner) :
    s.SameGround (t.modRecord i f) := by
  refine ⟨h.place, h.metered, h.monitor, fun j => ?_⟩
  by_cases e : j = i
  · subst e
    rw [← h.owner j]
    simp only [State.record, State.modRecord, State.slot_modSlot_self, Option.map_map]
    exact Option.map_congr fun r _ => kept r
  · rw [← h.owner j]
    exact congrArg (fun x : Slot => x.record.map Reservation.owner) (State.slot_modSlot_ne t i j _ e)

theorem setMark (h : s.SameGround t) (i : SlotNo) : s.SameGround (t.setMark i) :=
  ⟨h.place, h.metered, h.monitor, fun j => by rw [State.record_setMark, h.owner]⟩

theorem bump (h : s.SameGround t) (c : Counter) : s.SameGround (t.bump c) := by
  rw [State.bump_eq_of (t := t) (u := t) rfl rfl]
  exact h.of_parts rfl rfl rfl

theorem holdAt (h : s.SameGround t) (i : SlotNo) (b : BayNo) (hold : Nat) : s.SameGround (t.holdAt i b hold) := by
  have bound : s.SameGround (t.bind i b) :=
    ((h.modRecord i (fun r => { r with bay := some b }) fun _ => rfl).modBay b (fun x => { x with bound := some i }) (fun _ => rfl)
      fun _ => rfl).modFeederOf b _ fun _ => rfl
  have held := (bound.modRecord i (fun r => { r with state := .held }) fun _ => rfl).modBay b (·.enter .held) (fun _ => rfl)
    fun _ => rfl
  exact held.of_parts rfl rfl rfl

theorem offer (h : s.SameGround t) (b : BayNo) : s.SameGround (t.offer b) := by
  unfold State.offer
  split
  · exact h
  · dsimp only
    split
    · unfold State.placeWaiting
      split
      · exact h.of_parts rfl rfl rfl
      · refine ((State.SameGround.holdAt (t := State.dropDeadline _ _) ?_ _ b _).setMark _).bump _
        exact h.of_parts rfl rfl rfl
    · exact h.of_parts rfl rfl rfl

theorem offerFreeBays (h : s.SameGround t) : s.SameGround t.offerFreeBays := by
  refine foldl_keeps _ (fun u b hu => ?_) _ _ h
  split
  · exact hu.offer b
  · exact hu

theorem of_offRun (h : s.OffRun t) : s.SameGround t :=
  ⟨h.place, fun b => (congrArg Bay.metered (h.bay b) :), fun f => (h.feeder f).2.2, fun i => by rw [State.record_of_slots h.slots]⟩

theorem trans (h : s.SameGround t) (h' : t.SameGround u) : s.SameGround u :=
  ⟨fun b => (h'.place b).trans (h.place b), fun b => (h'.metered b).trans (h.metered b),
    fun f => (h'.monitor f).trans (h.monitor f), fun i => (h'.owner i).trans (h.owner i)⟩

end State.SameGround

/-- With nobody waiting the offers leave everything as it was. -/
theorem State.offerFreeBays_empty (high : s.highList = []) (normal : s.normalList = []) : s.offerFreeBays = s :=
  foldl_fixed _ s _ fun b _ => by
    split
    · exact State.offer_empty high normal
    · rfl

/-- The allotment entries derived again and the monitors taken up, written out. -/
theorem State.takeUpFeeders_rederive (s : State) (before : Option Plan) (plan : Plan) :
    (s.rederiveAllotments before plan).takeUpFeeders plan = { s with
      slots := s.slots.map fun x =>
        { x with record := x.record.map fun r => { r with allotment := (longestPrefix plan.allotments r.credential).map (·.1) } }
      ratioCount := if (match before with | some p => p.site.ratio == plan.site.ratio | none => false) then s.ratioCount else 0
      feeders := Vector.ofFn fun f => { s.feeder f with
        monitor := newMonitor (plan.feeders.find? (·.number == f))
          (((List.finRange 512).filter (s.onFeeder f)).map fun b => (s.bay b).metered).sum (s.feeder f).monitor } } := by
  rw [State.takeUpFeeders_eq, finRange_bays]
  rfl

theorem newMonitor_eq (record : Option FeederPlan) (load : Nat) (old : Option Monitor) :
    newMonitor record load old = record.map fun x =>
      { load := load, high := x.limit * x.highMark / 256, low := x.limit * x.lowMark / 256
        state := match old with | some m => m.state | none => .normal
        step := match old with | some m => m.step | none => 0 } := by
  cases old <;> rfl

/-- The same where the bays were settled from `s`, whose monitors and ratio counter the settling leaves. -/
theorem State.takeUpFeeders_settled {settled : State} (plan : Plan)
    (monitors : ∀ f, (settled.feeder f).monitor = (s.feeder f).monitor) (count : settled.ratioCount = s.ratioCount) :
    (settled.rederiveAllotments s.plan plan).takeUpFeeders plan = { settled with
      slots := settled.slots.map fun x =>
        { x with record := x.record.map fun r => { r with allotment := (longestPrefix plan.allotments r.credential).map (·.1) } }
      ratioCount := if (match s.plan with | some p => p.site.ratio == plan.site.ratio | none => false) then s.ratioCount else 0
      feeders := Vector.ofFn fun f => { settled.feeder f with
        monitor := (plan.feeders.find? (·.number == f)).map fun x =>
          { load := (((List.finRange 512).filter (settled.onFeeder f)).map fun b => (settled.bay b).metered).sum
            high := x.limit * x.highMark / 256, low := x.limit * x.lowMark / 256
            state := match (s.feeder f).monitor with | some m => m.state | none => .normal
            step := match (s.feeder f).monitor with | some m => m.step | none => 0 } } } := by
  rw [State.takeUpFeeders_rederive, count]
  simp only [newMonitor_eq, monitors] <;> rfl

/-- What the new entries and monitors leave as it was. -/
theorem State.rest_takeUpFeeders (s : State) (before : Option Plan) (plan : Plan) :
    { (s.rederiveAllotments before plan).takeUpFeeders plan with
      slots := s.slots, ratioCount := s.ratioCount, feeders := s.feeders } = s := by rw [State.takeUpFeeders_rederive]

section

variable (s : State) (before : Option Plan) (plan : Plan)

theorem State.plan_takenUp : ((s.rederiveAllotments before plan).takeUpFeeders plan).plan = s.plan :=
  (congrArg State.plan (s.rest_takeUpFeeders before plan) :)
theorem State.port_takenUp : ((s.rederiveAllotments before plan).takeUpFeeders plan).port = s.port :=
  (congrArg State.port (s.rest_takeUpFeeders before plan) :)
theorem State.clock_takenUp : ((s.rederiveAllotments before plan).takeUpFeeders plan).clock = s.clock :=
  (congrArg State.clock (s.rest_takeUpFeeders before plan) :)
theorem State.curtailment_takenUp : ((s.rederiveAllotments before plan).takeUpFeeders plan).curtailment = s.curtailment :=
  (congrArg State.curtailment (s.rest_takeUpFeeders before plan) :)
theorem State.snapshot_takenUp : ((s.rederiveAllotments before plan).takeUpFeeders plan).snapshot = s.snapshot :=
  (congrArg State.snapshot (s.rest_takeUpFeeders before plan) :)
theorem State.highList_takenUp : ((s.rederiveAllotments before plan).takeUpFeeders plan).highList = s.highList :=
  (congrArg State.highList (s.rest_takeUpFeeders before plan) :)
theorem State.normalList_takenUp : ((s.rederiveAllotments before plan).takeUpFeeders plan).normalList = s.normalList :=
  (congrArg State.normalList (s.rest_takeUpFeeders before plan) :)

theorem State.bay_takenUp (b : BayNo) : ((s.rederiveAllotments before plan).takeUpFeeders plan).bay b = s.bay b := by
  rw [State.takeUpFeeders_rederive]
  rfl

theorem State.slot_takenUp (i : SlotNo) : ((s.rederiveAllotments before plan).takeUpFeeders plan).slot i =
    { s.slot i with
      record := (s.record i).map fun r => { r with allotment := (longestPrefix plan.allotments r.credential).map (·.1) } } := by
  rw [State.takeUpFeeders_rederive]
  simp [State.slot, State.record]

theorem State.mark_takenUp (i : SlotNo) :
    (((s.rederiveAllotments before plan).takeUpFeeders plan).slot i).mark = (s.slot i).mark := by rw [State.slot_takenUp]

end

theorem State.monitor_takenUp {settled : State} (plan : Plan)
    (monitors : ∀ f, (settled.feeder f).monitor = (s.feeder f).monitor) (count : settled.ratioCount = s.ratioCount) (f : FeederNo) :
    (((settled.rederiveAllotments s.plan plan).takeUpFeeders plan).feeder f).monitor =
      (plan.feeders.find? (·.number == f)).map fun x =>
        { load := (((List.finRange 512).filter (settled.onFeeder f)).map fun b => (settled.bay b).metered).sum
          high := x.limit * x.highMark / 256, low := x.limit * x.lowMark / 256
          state := match (s.feeder f).monitor with | some m => m.state | none => .normal
          step := match (s.feeder f).monitor with | some m => m.step | none => 0 } := by
  rw [State.takeUpFeeders_settled plan monitors count]
  simp only [State.feeder, Vector.getElem_ofFn]

/-- What events on the lanes and expiries keep, the offers of an apply keep. -/
theorem KeepsLive.offerFreeBays {P : State → Prop} (k : KeepsLive P) (s : State) (h : P s) : P s.offerFreeBays :=
  foldl_keeps _ (fun u b hu => by
    split
    · exact k.offer u b hu
    · exact hu) _ _ h

/-! ### The completion event in the words of the statement -/

theorem finRange_lanes : List.finRange 4 = allLanes := by
  unfold allLanes
  rfl

theorem State.startIdleLanes_eq (s : State) : s.startIdleLanes =
    (List.finRange 4).foldl (fun u l => if (u.lane l).line = none then u.chooseNext l else u) s := by
  rw [finRange_lanes]
  simp only [State.startIdleLanes, Option.isNone_iff_eq_none]

theorem State.conflicts_handedOver (s : State) (whole : List Byte) (plan : Plan) (b : BayNo) :
    (s.handedOver whole).conflicts plan b = s.conflicts plan b := rfl

theorem State.pledgeAbove_handedOver (s : State) (whole : List Byte) (plan : Plan) (f : FeederNo) :
    (s.handedOver whole).pledgeAbove plan f = s.pledgeAbove plan f := rfl

theorem State.completePlan_applies {count : Nat} (sound : (readPlan s.staged).firstFault = none)
    (free : allBays.find? (s.conflicts (readPlan s.staged).plan) = none)
    (covered : allFeeders.find? (s.pledgeAbove (readPlan s.staged).plan) = none) :
    s.completePlan count =
      ((State.aspectOrders s (s.applyPlan (readPlan s.staged).plan).endCompletion).startIdleLanes,
        ⟨.ok, le 1 count ++ le 2 (s.countChanges (readPlan s.staged).plan .added) ++
          le 2 (s.countChanges (readPlan s.staged).plan .removed) ++ le 2 (s.countChanges (readPlan s.staged).plan .changed)⟩) := by
  simp only [State.completePlan, sound, free, covered]

/-! ### The counts of the answer (R13) -/

theorem State.endCompletion_eq (s : State) :
    s.endCompletion = { s with staged := [], notices := s.notices.raise .planApplied } := rfl

section

variable (s : State)

theorem State.plan_endCompletion : s.endCompletion.plan = s.plan := State.plan_raise _ _
theorem State.staged_endCompletion : s.endCompletion.staged = [] := State.staged_raise _ _
theorem State.port_endCompletion : s.endCompletion.port = s.port := State.port_raise _ _
theorem State.clock_endCompletion : s.endCompletion.clock = s.clock := State.clock_raise _ _
theorem State.curtailment_endCompletion : s.endCompletion.curtailment = s.curtailment := State.curtailment_raise _ _
theorem State.snapshot_endCompletion : s.endCompletion.snapshot = s.snapshot := State.snapshot_raise _ _
theorem State.slots_endCompletion : s.endCompletion.slots = s.slots := State.slots_raise _ _
theorem State.notices_endCompletion : s.endCompletion.notices = s.notices.raise .planApplied := rfl
theorem State.feeder_endCompletion (f : FeederNo) : s.endCompletion.feeder f = s.feeder f := State.feeder_raise _ _ f
theorem State.bay_endCompletion (b : BayNo) : s.endCompletion.bay b = s.bay b := State.bay_raise _ _ b

end

theorem bayChange_added (x y : Option BayPlan) : (x.isNone && y.isSome) = (bayChange x y == .added) := by
  cases x <;> cases y <;> simp [bayChange] <;> split <;> simp

theorem bayChange_removed (x y : Option BayPlan) : (x.isSome && y.isNone) = (bayChange x y == .removed) := by
  cases x <;> cases y <;> simp [bayChange] <;> split <;> simp

theorem bayChange_changed (x y : Option BayPlan) : (bayChange x y == .changed) = match x, y with
    | some x, some y =>
      !decide (x.zone = y.zone ∧ x.feeder = y.feeder ∧ x.kind = y.kind ∧ x.pmin = y.pmin ∧ x.pmax = y.pmax)
    | _, _ => false := by
  cases x with
  | none => cases y <;> rfl
  | some x =>
    cases y with
    | none => rfl
    | some y =>
      have := x.differs_iff y
      by_cases differs : x.differs y = true
      · simp [bayChange, differs, this.1 differs]
      · have same := not_not.1 (mt this.2 differs)
        simp [bayChange, differs, same]

theorem State.countChanges_eq (s : State) (plan : Plan) (k : BayChange) (t : Option BayPlan → Option BayPlan → Bool)
    (same : ∀ x y, t x y = (bayChange x y == k)) :
    s.countChanges plan k = (List.finRange 512).countP fun b => t (s.bay b).place (plan.bays.find? (·.number == b)) := by
  rw [State.countChanges, ← finRange_bays]
  exact congrArg (List.countP · _) (funext fun b => (same _ _).symm)

theorem Notices.isSet_raise (n : Notices) (f : Notice) : (n.raise f).isSet f = true := by
  simp only [Notices.isSet, Notices.raise, Notices.drive]
  generalize n.status = w
  revert w
  cases f <;> decide

end Sys2Proof.Machine

open Sys2Proof Sys2Proof.Machine

/-- Settles O33: the answer and the state computed step by step, then what each step leaves of the plan, the records and the bays. -/
theorem aPassedPlanIsApplied : Obligations.APassedPlanIsApplied := by
  unfold Obligations.APassedPlanIsApplied
  intro c body whole count s takes completes plan
  have planned : (readPlan whole).plan = plan := rfl
  clear_value plan
  intro sound free pledged old new differs tally added removed changed settled sameRatio monitor ready offered t
  have resettled : ({ s with plan := some plan, staged := whole, port := { s.port with sequence := none } } : State).Resettled settled :=
    State.resettled_foldl plan _ _
  have taken := State.Completes.exec_eq completes takes
  have settled_bay (b : BayNo) : settled.bay b = settledBay plan b (s.bay b) :=
    (State.bay_foldl_settleBay plan _ (List.nodup_finRange 512) _ b).trans (if_pos (List.mem_finRange b))
  have applied : (s.handedOver whole).applyPlan plan =
      ((settled.rederiveAllotments s.plan plan).takeUpFeeders plan).allocationRun.offerFreeBays := by
    unfold State.applyPlan
    rw [← finRange_bays]
    rfl
  clear_value settled
  have taken_up : (settled.rederiveAllotments s.plan plan).takeUpFeeders plan = ready :=
    State.takeUpFeeders_settled plan resettled.monitor resettled.ratioCount
  have watched (f : FeederNo) : (ready.feeder f).monitor = monitor f := by
    rw [← taken_up]
    exact State.monitor_takenUp (s := s) plan resettled.monitor resettled.ratioCount f
  clear_value ready monitor
  have offers : offered = ready.allocationRun.offerFreeBays := by
    rw [State.offerFreeBays, ← finRange_bays]
  have tallied (k : BayChange) (f : Option BayPlan → Option BayPlan → Bool) (same : ∀ x y, f x y = (bayChange x y == k)) :
      (s.handedOver whole).countChanges plan k = tally f := State.countChanges_eq (s.handedOver whole) plan k f same
  clear_value tally
  clear_value offered
  have event : (s.handedOver whole).completePlan count =
      (t, ⟨.ok, le 1 count ++ le 2 added ++ le 2 removed ++ le 2 changed⟩) := by
    have staged : (readPlan (s.handedOver whole).staged).plan = plan := planned
    have free' : allBays.find? ((s.handedOver whole).conflicts plan) = none :=
      List.find?_eq_none.2 fun b _ => by rw [State.conflicts_handedOver, free b]; decide
    have covered : allFeeders.find? ((s.handedOver whole).pledgeAbove plan) = none :=
      List.find?_eq_none.2 fun f _ => by rw [State.pledgeAbove_handedOver, pledged f]; decide
    rw [State.completePlan_applies sound (by rw [staged, free']) (by rw [staged, covered]), staged, applied, taken_up, ← offers,
      State.startIdleLanes_eq]
    have adds : (s.handedOver whole).countChanges plan .added = added :=
      tallied .added _ bayChange_added
    have removes : (s.handedOver whole).countChanges plan .removed = removed :=
      tallied .removed _ bayChange_removed
    have changes : (s.handedOver whole).countChanges plan .changed = changed :=
      tallied .changed _ fun x y => Eq.trans (by cases x <;> cases y <;> rfl) (bayChange_changed x y).symm
    have lit : State.aspectOrders (s.handedOver whole) offered.endCompletion = State.aspectOrders s offered.endCompletion :=
      State.aspectOrders_congr fun _ => rfl
    rw [adds, removes, changes, lit, State.endCompletion_eq]
  have lanes : offered.endCompletion.LanesOf t := by
    have start := ((State.LanesOf.refl offered.endCompletion).aspectOrders s).startIdleLanes
    rw [State.startIdleLanes_eq, State.endCompletion_eq] at start
    rw [State.endCompletion_eq]
    exact start
  clear_value t
  have ran := ready.offRun_allocationRun
  have ground : ready.SameGround offered := by
    rw [offers]
    exact (State.SameGround.of_offRun ran).offerFreeBays
  have kept {P : State → Prop} (k : KeepsLive P) (h : P ready) : P offered := by
    rw [offers]
    exact k.offerFreeBays _ (k.allocationRun _ h)
  obtain ⟨port, -, clock, curtailment⟩ := kept ready.sameOffLane_keepsLive ⟨rfl, rfl, rfl, rfl⟩
  have active : offered.plan = ready.plan := kept (State.hasPlan_keepsLive ready.plan) rfl
  have bank : offered.snapshot = ready.snapshot := (kept ready.countsOn_keepsLive ⟨rfl, fun _ h => ⟨le_rfl, h⟩⟩).1
  have feeder (f : FeederNo) : (t.feeder f).monitor = monitor f := by
    rw [lanes.feeder, State.feeder_endCompletion, ground.monitor, watched]
  have bay (b : BayNo) : (t.bay b).place = (settledBay plan b (s.bay b)).place ∧
      (t.bay b).metered = (settledBay plan b (s.bay b)).metered := by
    rw [lanes.bay, State.bay_endCompletion, ground.place, ground.metered, ← taken_up, State.bay_takenUp, settled_bay]
    exact ⟨rfl, rfl⟩
  have slots : t.slots = offered.slots := lanes.slots.trans offered.slots_endCompletion
  refine ⟨by rw [taken, event], lanes.plan_eq.trans (offered.plan_endCompletion.trans <| active.trans
    ((taken_up ▸ settled.plan_takenUp s.plan plan : ready.plan = settled.plan).trans resettled.plan_eq)),
    lanes.staged.trans offered.staged_endCompletion, ?_, ?_, ?_, ?_, ?_, feeder, fun i r hr => ?_,
    fun high normal i => ?_, fun b => ⟨?_, fun x y hx hy => ?_⟩⟩
  · exact lanes.port.trans (offered.port_endCompletion.trans <| port.trans
      ((taken_up ▸ settled.port_takenUp s.plan plan : ready.port = settled.port).trans resettled.port))
  · exact lanes.clock.trans (offered.clock_endCompletion.trans <| clock.trans
      ((taken_up ▸ settled.clock_takenUp s.plan plan : ready.clock = settled.clock).trans
      resettled.clock))
  · exact lanes.curtailment.trans (offered.curtailment_endCompletion.trans <| curtailment.trans
      ((taken_up ▸ settled.curtailment_takenUp s.plan plan : ready.curtailment = settled.curtailment).trans resettled.curtailment))
  · exact lanes.snapshot.trans (offered.snapshot_endCompletion.trans <| bank.trans
      ((taken_up ▸ settled.snapshot_takenUp s.plan plan : ready.snapshot = settled.snapshot).trans resettled.snapshot))
  · rw [lanes.notices, State.notices_endCompletion]
    exact Notices.isSet_raise _ _
  · have same := ground.owner i
    have rederived : ready.record i = some { r with allotment := (longestPrefix plan.allotments r.credential).map (·.1) } := by
      rw [State.record, ← taken_up, State.slot_takenUp, State.record_of_slots resettled.slots]
      show (s.record i).map _ = _
      rw [hr]
      rfl
    rw [rederived] at same
    obtain ⟨z, hz, owner⟩ := Option.map_eq_some_iff.1 same
    obtain ⟨credential, entry⟩ := Prod.mk.inj owner
    exact ⟨z, (State.record_of_slots slots i).trans hz, credential, entry⟩
  · have high' : ready.allocationRun.highList = [] := by
      rw [State.highList_allocationRun, ← taken_up, State.highList_takenUp]
      exact resettled.highList.trans high
    have normal' : ready.allocationRun.normalList = [] := by
      rw [State.normalList_allocationRun, ← taken_up, State.normalList_takenUp]
      exact resettled.normalList.trans normal
    have unmoved : t.slots = ready.slots := by
      rw [slots, offers, State.offerFreeBays_empty high' normal', State.slots_allocationRun]
    have here : t.slot i = ready.slot i := by simp only [State.slot, unmoved]
    rw [here, ← taken_up, State.mark_takenUp, resettled.slot]
    rfl
  · rw [(bay b).1]
    exact isSome_place_settledBay plan b (s.bay b)
  · rw [(bay b).1] at hx
    rw [(bay b).2]
    exact settledBay_planned hx hy

end

section
/-! SUPPORT. The soft reset (R186) in its steps: the orders dropped, every record retired, the bays settled by their last occupancy, the
lanes flushed, and a run with no session. -/

-- One proof after another: side by side, the package as one text takes a thread and its stack for each.
set_option Elab.async false

namespace Sys2Proof.Machine

variable {s t u : State} {b : BayNo} {i : SlotNo} {r : Reservation}

/-! ### Folds that update each place by itself -/

/-- A fold whose every step changes what is read at its own place, each place met once. -/
theorem read_foldl_pointwise {σ α β : Type} [DecidableEq α] (read : σ → α → β) (f : σ → α → σ) (g : α → β → β)
    (step : ∀ s a y, read (f s a) y = if y = a then g y (read s y) else read s y) (l : List α) (distinct : l.Nodup) (s : σ) (y : α) :
    read (l.foldl f s) y = if y ∈ l then g y (read s y) else read s y := by
  induction l generalizing s with
  | nil => simp
  | cons a l ih =>
    obtain ⟨fresh, distinct⟩ := List.nodup_cons.1 distinct
    rw [List.foldl_cons, ih distinct, step]
    by_cases h : y = a
    · subst h
      simp [fresh]
    · simp [h]

theorem State.bay_modBay (s : State) (b y : BayNo) (f : Bay → Bay) : (s.modBay b f).bay y = if y = b then f (s.bay y) else s.bay y := by
  by_cases h : y = b
  · subst h
    rw [State.bay_modBay_self, if_pos rfl]
  · rw [State.bay_modBay_ne _ _ _ _ h, if_neg h]

theorem State.grant_modGrant (s : State) (b y : BayNo) (f : Grants → Grants) :
    (s.modGrant b f).grant y = if y = b then f (s.grant y) else s.grant y := by
  by_cases h : y = b
  · subst h
    rw [State.grant_modGrant_self, if_pos rfl]
  · rw [State.grant_modGrant_ne _ _ _ _ h, if_neg h]

/-! ### A run with no session (R122 to R131) -/

theorem shareSessions_nil (budget : Nat) : shareSessions budget [] = [] := by
  simp only [shareSessions, grantMinimums]
  unfold extras
  simp only [List.all_nil, if_true]
  cases budget <;> simp [unitRounds]

theorem State.sessionsOn_idle (idle : ∀ b, s.charging b = false) (f : FeederNo) : s.sessionsOn f = [] := by
  have none_ (b : BayNo) : s.sessionOf b = none := by
    have : s.sessionAt b = none := by simpa [State.charging] using idle b
    unfold State.sessionOf
    rw [this]
    cases s.plan <;> cases (s.bay b).place <;> rfl
  have nobody : (allBays.filter (s.onFeeder f)).filterMap s.sessionOf = [] := by simp [none_]
  unfold State.sessionsOn
  rw [nobody]
  rfl

/-- The four values a run writes for a feeder (R122, R124 to R126). -/
theorem State.writeBudgets_eq (s : State) : s.writeBudgets = { s with
    effective := s.siteBudget
    feeders := Vector.ofFn fun f =>
      let budgets := match s.plan with
        | some plan => shareBudget plan.site.mode s.siteBudget (allFeeders.map s.wantOf)
        | none => allFeeders.map s.wantOf
      let trimmed := if (s.feederPlan f).isSome then trimBudget (budgets.getD f.val 0) (s.feeder f).trimStep else 0
      { s.feeder f with
        want := s.wantOf f, budget := budgets.getD f.val 0, trimmedBudget := trimmed
        sessionBudget := trimmed - (s.feeder f).stranded } } := by
  have wants (f : FeederNo) : (allFeeders.map s.wantOf).getD f.val 0 = s.wantOf f := by
    rw [← finRange_feeders]
    simp [List.getD_eq_getElem?_getD]
  unfold State.writeBudgets
  dsimp only
  simp only [wants]
  exact foldl_modFeeder_allFeeders _ { s with effective := s.siteBudget }

theorem State.discardIncreases_idle (unheld : ∀ b, (s.grant b).heldBack = none) : s.discardIncreases = s :=
  foldl_fixed _ s _ fun b _ => if_neg (by rw [unheld b]; decide)

theorem State.testGate_idle (unheld : ∀ b, (s.grant b).heldBack = none) (f : FeederNo) : s.testGate f = s := by
  have nothing : s.releaseIncreases f = s := foldl_fixed _ s _ fun b _ => by
    have : s.releaseIncrease b = s := by
      unfold State.releaseIncrease
      rw [unheld b]
    rw [this]
    split <;> rfl
  unfold State.testGate
  rw [nothing]
  split <;> rfl

/-- `t` has the bindings and records of `s`, and nothing held back. -/
def State.IdleAs (s t : State) : Prop :=
  (∀ b, (t.bay b).bound = (s.bay b).bound) ∧ t.slots = s.slots ∧ ∀ b, (t.grant b).heldBack = none

theorem State.IdleAs.charging (h : s.IdleAs t) (idle : ∀ b, s.charging b = false) (b : BayNo) : t.charging b = false := by
  rw [← idle b]
  simp only [State.charging, State.sessionAt, h.1, State.record_of_slots h.2.1]

theorem State.IdleAs.clearTarget (h : s.IdleAs t) (b : BayNo) : s.IdleAs (t.clearTarget b) := by
  obtain ⟨bound, slots, held⟩ := h
  refine ⟨fun y => ?_, slots, fun y => ?_⟩
  · rw [← bound y]
    unfold State.clearTarget
    rw [State.bay_modBay]
    split <;> rfl
  · rw [← held y]
    unfold State.clearTarget
    rw [State.grant_modBay, State.grant_modGrant]
    split <;> rfl

theorem State.IdleAs.foldl_clearTarget (idle : ∀ b, s.charging b = false) (h : s.IdleAs t) (l : List BayNo) :
    l.foldl (fun u b => if u.charging b then u else u.clearTarget b) t = l.foldl State.clearTarget t ∧
      s.IdleAs (l.foldl State.clearTarget t) := by
  induction l generalizing t with
  | nil => exact ⟨rfl, h⟩
  | cons b l ih =>
    rw [List.foldl_cons, List.foldl_cons, h.charging idle b]
    exact ih (h.clearTarget b)

/-- A run with no session and nothing held back writes the budgets and clears every target. -/
theorem State.allocationRun_idle (idle : ∀ b, s.charging b = false) (unheld : ∀ b, (s.grant b).heldBack = none) :
    s.allocationRun = allBays.foldl State.clearTarget s.writeBudgets := by
  have budgets : s.IdleAs s.writeBudgets := by
    rw [State.writeBudgets_eq]
    exact ⟨fun _ => rfl, rfl, unheld⟩
  obtain ⟨same, after⟩ := budgets.foldl_clearTarget idle allBays
  have cleared : s.writeBudgets.writeTargets = allBays.foldl State.clearTarget s.writeBudgets := by
    unfold State.writeTargets
    dsimp only
    rw [same]
    refine foldl_fixed _ _ _ fun f _ => ?_
    rw [State.sessionsOn_idle (budgets.charging idle), shareSessions_nil]
    rfl
  have settled {t : State} (h : s.IdleAs t) : t.settleTargets = t := by
    have charging := h.charging idle
    obtain ⟨-, -, held⟩ := h
    unfold State.settleTargets
    dsimp only
    rw [State.discardIncreases_idle held, foldl_fixed _ t _ fun b _ => if_neg (by rw [charging b]; decide),
      foldl_fixed _ t _ fun f _ => State.testGate_idle held f]
  unfold State.allocationRun
  rw [cleared, settled after]

/-! ### Step 2: the orders dropped -/

/-- The grants of a bay whose session has ended and whose orders are dropped. -/
def Grants.dropped (g : Grants) : Grants :=
  { g with target := 0, outstanding := none, pending := none, heldBack := none, startQueued := false }

/-- `t` differs from `s` in grants, in the states of bays in service, and in what a session's end writes of its record. -/
structure State.OrdersDropped (s t : State) : Prop where
  rest : { t with bays := s.bays, slots := s.slots, grants := s.grants } = s
  bay : ∀ b, t.bay b = { s.bay b with
    state := (t.bay b).state, reason := (t.bay b).reason, aspect := (t.bay b).aspect, starved := (t.bay b).starved }
  service : ∀ b, (t.bay b).state.inService = (s.bay b).state.inService
  outside : ∀ b, (s.bay b).state.inService = false →
    (t.bay b).state = (s.bay b).state ∧ (t.bay b).reason = (s.bay b).reason ∧ (t.bay b).aspect = (s.bay b).aspect
  slot : ∀ i, { t.slot i with record := (s.slot i).record } = s.slot i
  bound : ∀ i, (t.record i).map (·.bay) = (s.record i).map (·.bay)

namespace State.OrdersDropped

theorem refl (s : State) : s.OrdersDropped s :=
  ⟨rfl, fun _ => rfl, fun _ => rfl, fun _ _ => ⟨rfl, rfl, rfl⟩, fun _ => rfl, fun _ => rfl⟩

theorem modGrant (h : s.OrdersDropped t) (b : BayNo) (f : Grants → Grants) : s.OrdersDropped (t.modGrant b f) :=
  ⟨h.rest, h.bay, h.service, h.outside, h.slot, h.bound⟩

theorem modRecord (h : s.OrdersDropped t) (i : SlotNo) (f : Reservation → Reservation) (kept : ∀ r, (f r).bay = r.bay) :
    s.OrdersDropped (t.modRecord i f) := by
  refine ⟨h.rest, h.bay, h.service, h.outside, fun j => ?_, fun j => ?_⟩
  · by_cases e : j = i
    · subst e
      rw [← h.slot j]
      simp [State.modRecord]
    · rw [← h.slot j]
      simp only [State.modRecord, State.slot_modSlot_ne t i j _ e]
  · rw [← h.bound j]
    by_cases e : j = i
    · subst e
      simp only [State.record, State.modRecord, State.slot_modSlot_self, Option.map_map]
      exact Option.map_congr fun r _ => kept r
    · simp only [State.record, State.modRecord, State.slot_modSlot_ne t i j _ e]

theorem starve (h : s.OrdersDropped t) (b : BayNo) : s.OrdersDropped (t.modBay b fun y => { y with starved := false }) := by
  refine ⟨h.rest, fun y => ?_, fun y => ?_, fun y out => ?_, h.slot, h.bound⟩
  · rw [State.bay_modBay]
    split
    · rw [h.bay y]
    · exact h.bay y
  · rw [State.bay_modBay, ← h.service y]
    split <;> rfl
  · rw [State.bay_modBay]
    split <;> exact h.outside y out

theorem enter (h : s.OrdersDropped t) (b : BayNo) (charging : (t.bay b).state = .charging) :
    s.OrdersDropped (t.enter b .engaged) := by
  refine ⟨h.rest, fun y => ?_, fun y => ?_, fun y out => ?_, h.slot, h.bound⟩
  · unfold State.enter
    rw [State.bay_modBay]
    split
    · rw [h.bay y]
      rfl
    · exact h.bay y
  · unfold State.enter
    rw [State.bay_modBay, ← h.service y]
    split
    · next e => rw [e, charging]; rfl
    · rfl
  · unfold State.enter
    rw [State.bay_modBay]
    split
    · next e =>
      have := h.service y
      rw [out, e, charging] at this
      cases this
    · exact h.outside y out

theorem dropOrders (h : s.OrdersDropped t) (b : BayNo) : s.OrdersDropped (t.dropOrders b) := by
  unfold State.dropOrders
  refine State.OrdersDropped.modGrant ?_ b _
  unfold State.endSession
  split
  · exact h
  · next i _ =>
    have ended := h.modRecord i (fun r => { r with state := .engaged, session := none, sessionDone := true }) fun _ => rfl
    simp only [Bool.false_eq_true, if_false]
    refine State.OrdersDropped.modGrant (State.OrdersDropped.starve ?_ b) b _
    split
    · next charging => exact ended.enter b charging
    · exact ended

end State.OrdersDropped

/-- The end of a session changes the grants of its bay in what a RESET drops. -/
theorem State.grant_endSession_dropped (s : State) (b y : BayNo) :
    ((s.endSession b false false).grant y).dropped = (s.grant y).dropped ∧
      (y ≠ b → (s.endSession b false false).grant y = s.grant y) := by
  unfold State.endSession
  split
  · exact ⟨rfl, fun _ => rfl⟩
  · have entered (t : State) (p : Prop) [Decidable p] : (if p then t.enter b .engaged else t).grant y = t.grant y := by split <;> rfl
    simp only [Bool.false_eq_true, if_false, State.grant_modGrant, State.grant_modBay, entered, State.grant_modRecord]
    exact ⟨by split <;> rfl, fun ne => if_neg ne⟩

theorem State.grant_dropOrders (s : State) (b y : BayNo) :
    (s.dropOrders b).grant y = if y = b then (s.grant y).dropped else s.grant y := by
  obtain ⟨here, elsewhere⟩ := s.grant_endSession_dropped b y
  unfold State.dropOrders
  rw [State.grant_modGrant]
  by_cases e : y = b
  · rw [if_pos e, if_pos e, ← here]
    rfl
  · rw [if_neg e, if_neg e, elsewhere e]

/-- Step 2 of a RESET (R141). -/
theorem State.ordersDropped_foldl (s : State) : s.OrdersDropped (allBays.foldl State.dropOrders s) ∧
    ∀ b, (allBays.foldl State.dropOrders s).grant b = (s.grant b).dropped :=
  ⟨foldl_keeps _ (fun _ b h => h.dropOrders b) _ _ (.refl s), fun b =>
    (read_foldl_pointwise State.grant State.dropOrders (fun _ g => g.dropped) State.grant_dropOrders _ nodup_allBays s b).trans
      (if_pos (mem_allBays b))⟩

/-! ### Step 3: every record retired -/

theorem State.retire_unplanned (hr : s.record i = some r) (hb : r.bay = some b) (hp : (s.bay b).place = none) (o : Ending) :
    s.retire i o = { s.vacated i o with
      notices := s.notices.evaluate (s.vacated i o).markedCount
      bays := s.bays.set b.val { s.bay b with bound := none, keptHold := false } } := by
  have nowhere (t : State) (h : (t.bay b).place = none) (g : Feeder → Feeder) : t.modFeederOf b g = t := by
    simp [State.modFeederOf, State.feederOf, h]
  have hr' : s.slots[i.val].record = some r := hr
  simp only [State.retire, hr, State.unbind, Option.bind_some, hb]
  rw [nowhere _ (by simp [hp])]
  apply State.ext <;>
    simp [State.vacated, State.freeSlot, State.leaveLists, State.dropDeadline, State.evaluateChanges, State.slot, nextGeneration,
      State.markedCount, State.modRecord, State.modSlot, State.modBay, State.bay, hr']

/-- The pmin the binding of a slot's record puts on a feeder (R53). -/
def State.bindingOn (s : State) (f : FeederNo) (i : SlotNo) : Nat :=
  match (s.record i).bind (·.bay) with
  | some b =>
    match (s.bay b).place with
    | some p => if p.feeder = f then p.pmin else 0
    | none => 0
  | none => 0

/-- The slot of a record retired for a reason. -/
def Slot.retired (x : Slot) (o : Ending) : Slot :=
  { record := none, lastOutcome := some o, mark := true, generation := nextGeneration x.generation }

/-- `t` is `s` with the live records of the slots of `l` retired. -/
structure State.Retired (s t : State) (o : Ending) (l : List SlotNo) : Prop where
  rest : { t with
    slots := s.slots, freeSlots := s.freeSlots, highList := s.highList, normalList := s.normalList, deadlines := s.deadlines
    bays := s.bays, feeders := s.feeders, notices := s.notices } = s
  slot : ∀ j, t.slot j = if j ∈ l ∧ (s.record j).isSome then (s.slot j).retired o else s.slot j
  bay : ∀ b, t.bay b = { s.bay b with bound := (t.bay b).bound, keptHold := (t.bay b).keptHold }
  bound : ∀ b, (s.bay b).bound = none ∧ (s.bay b).keptHold = false ∨
    (∃ j ∈ l, ∃ r, s.record j = some r ∧ r.bay = some b) → (t.bay b).bound = none ∧ (t.bay b).keptHold = false
  feeder : ∀ f, t.feeder f = { s.feeder f with pledge := (s.feeder f).pledge - (l.map (s.bindingOn f)).sum }
  free : t.freeSlots = s.freeSlots ++ l.filter fun j => (s.record j).isSome
  high : t.highList = s.highList.filter fun j => !(l.contains j && (s.record j).isSome)
  normal : t.normalList = s.normalList.filter fun j => !(l.contains j && (s.record j).isSome)
  notices : t.notices.mask = s.notices.mask ∧ t.notices.threshold = s.notices.threshold

theorem Notices.kept_evaluate (n : Notices) (count : Nat) :
    (n.evaluate count).mask = n.mask ∧ (n.evaluate count).threshold = n.threshold := by
  unfold Notices.evaluate
  split
  · exact ⟨rfl, rfl⟩
  · split <;> exact ⟨rfl, rfl⟩

/-- A slot that holds no record is not retired. -/
theorem State.retired_vacant (hr : s.record i = none) (o : Ending) : s.Retired (s.retire i o) o [i] := by
  have same : s.retire i o = s := by simp only [State.retire, hr]
  have vacant (j : SlotNo) : ¬(j ∈ [i] ∧ (s.record j).isSome = true) := by
    rintro ⟨here, live⟩
    rw [List.mem_singleton.1 here, hr] at live
    cases live
  rw [same]
  refine ⟨rfl, fun j => (if_neg (vacant j)).symm, fun _ => rfl, fun b h => ?_, fun f => ?_, ?_, ?_, ?_, rfl, rfl⟩
  · rcases h with h | ⟨j, here, r, hj, -⟩
    · exact h
    · exact absurd ⟨here, by rw [hj]; rfl⟩ (vacant j)
  · simp [State.bindingOn, hr]
  · simp [hr]
  all_goals
    refine (List.filter_eq_self.2 fun j _ => ?_).symm
    simpa [imp_iff_not_or] using vacant j

/-- What a retirement leaves of the slots and lists, whatever it does to the bay. -/
theorem State.retired_of_vacated {bays : Vector Bay 512} {feeders : Vector Feeder 16} {o : Ending} (hr : s.record i = some r)
    (same : t = { s.vacated i o with
      notices := s.notices.evaluate (s.vacated i o).markedCount, bays := bays, feeders := feeders })
    (bay : ∀ b, t.bay b = { s.bay b with bound := (t.bay b).bound, keptHold := (t.bay b).keptHold })
    (bound : ∀ b, (s.bay b).bound = none ∧ (s.bay b).keptHold = false ∨ r.bay = some b →
      (t.bay b).bound = none ∧ (t.bay b).keptHold = false)
    (feeder : ∀ f, t.feeder f = { s.feeder f with pledge := (s.feeder f).pledge - s.bindingOn f i }) :
    s.Retired t o [i] := by
  have only (b : BayNo) : (∃ j ∈ [i], ∃ x, s.record j = some x ∧ x.bay = some b) → r.bay = some b := by
    rintro ⟨j, here, x, hx, hb⟩
    rw [List.mem_singleton.1 here, hr] at hx
    cases hx
    exact hb
  refine ⟨by rw [same]; rfl, fun j => ?_, bay, fun b h => bound b (h.imp_right (only b)), fun f => ?_, ?_, ?_, ?_, ?_⟩
  · by_cases e : j = i
    · subst e
      rw [if_pos ⟨List.mem_singleton_self j, by rw [hr]; rfl⟩, same]
      simp [State.slot, State.vacated, Slot.retired, nextGeneration]
    · rw [if_neg fun h => e (List.mem_singleton.1 h.1), same]
      exact Vector.getElem_set_ne i.isLt j.isLt fun h : i.val = j.val => e (Fin.ext h.symm)
  · rw [feeder f]
    simp
  · rw [same]
    simp [State.vacated, hr]
  · rw [same]
    refine List.filter_congr fun j _ => ?_
    by_cases e : j = i <;> simp [e, hr]
  · rw [same]
    refine List.filter_congr fun j _ => ?_
    by_cases e : j = i <;> simp [e, hr]
  · rw [same]
    exact s.notices.kept_evaluate _

theorem State.retired_one (s : State) (i : SlotNo) (o : Ending) : s.Retired (s.retire i o) o [i] := by
  cases hr : s.record i with
  | none => exact State.retired_vacant hr o
  | some r =>
    have bay (y : BayNo) := State.bay_retire hr o y
    have kept (y : BayNo) : (s.retire i o).bay y = { s.bay y with
        bound := ((s.retire i o).bay y).bound, keptHold := ((s.retire i o).bay y).keptHold } := by
      rw [bay y]
      split <;> rfl
    have bound (y : BayNo) : (s.bay y).bound = none ∧ (s.bay y).keptHold = false ∨ r.bay = some y →
        ((s.retire i o).bay y).bound = none ∧ ((s.retire i o).bay y).keptHold = false := by
      intro h
      rw [bay y]
      split
      · exact ⟨rfl, rfl⟩
      · next other => exact h.resolve_right other
    cases hb : r.bay with
    | none =>
      have same := State.retire_unbound hr hb o
      refine State.retired_of_vacated hr same kept bound fun f => ?_
      rw [same]
      simp [State.bindingOn, hr, hb]
      rfl
    | some b =>
      cases hp : (s.bay b).place with
      | none =>
        have same := State.retire_unplanned hr hb hp o
        refine State.retired_of_vacated hr same kept bound fun f => ?_
        rw [same]
        simp [State.bindingOn, hr, hb, hp]
        rfl
      | some p =>
        have same := State.retire_planned hr hb hp o
        refine State.retired_of_vacated hr same kept bound fun f => ?_
        rw [same]
        simp only [State.bindingOn, hr, Option.bind_some, hb, hp]
        by_cases e : p.feeder = f
        · subst e
          simp [State.feeder]
        · rw [if_neg e]
          exact Vector.getElem_set_ne p.feeder.isLt f.isLt fun h => e (Fin.ext h)

namespace State.Retired

variable {o : Ending} {l : List SlotNo}

theorem record (h : s.Retired t o l) (j : SlotNo) : t.record j = if j ∈ l then none else s.record j := by
  unfold State.record
  rw [h.slot j]
  by_cases here : j ∈ l
  · cases hj : s.record j with
    | none =>
      simp only [here, Option.isSome_none, Bool.false_eq_true, and_false, if_false, if_true]
      exact hj
    | some r => simp [here, Slot.retired]
  · simp [here]

theorem bindingOn (h : s.Retired t o l) (f : FeederNo) {j : SlotNo} (other : j ∉ l) : t.bindingOn f j = s.bindingOn f j := by
  have place (b : BayNo) : (t.bay b).place = (s.bay b).place := by rw [h.bay b]
  unfold State.bindingOn
  simp only [h.record j, if_neg other, place]

/-- Retirements one after another. -/
theorem cons (one : s.Retired t o [i]) (more : t.Retired u o l) (fresh : i ∉ l) : s.Retired u o (i :: l) := by
  have record (j : SlotNo) (other : j ≠ i) : t.record j = s.record j := by
    rw [one.record j, if_neg fun h => other (List.mem_singleton.1 h)]
  have elsewhere {j : SlotNo} (hj : j ∈ l) : j ≠ i := fun e => fresh (e ▸ hj)
  have later (p : SlotNo → Bool) (same : ∀ j, j ≠ i → p j = (s.record j).isSome) :
      l.filter p = l.filter fun j => (s.record j).isSome := List.filter_congr fun j hj => same j (elsewhere hj)
  have waiting (q : List SlotNo) : (q.filter fun j => !([i].contains j && (s.record j).isSome)).filter
      (fun j => !(l.contains j && (t.record j).isSome)) = q.filter fun j => !((i :: l).contains j && (s.record j).isSome) := by
    rw [List.filter_filter]
    refine List.filter_congr fun j _ => ?_
    by_cases e : j = i
    · subst e
      simp [fresh]
    · rw [record j e]
      simp [e]
  refine ⟨?_, fun j => ?_, fun b => ?_, fun b h => more.bound b ?_, fun f => ?_, ?_, ?_, ?_, ?_⟩
  · exact (congrArg (fun x : State => { x with
      slots := s.slots, freeSlots := s.freeSlots, highList := s.highList, normalList := s.normalList, deadlines := s.deadlines
      bays := s.bays, feeders := s.feeders, notices := s.notices }) more.rest :).trans one.rest
  · rw [more.slot j]
    by_cases e : j = i
    · subst e
      rw [if_neg fun h => fresh h.1, one.slot j]
      simp
    · rw [record j e, one.slot j]
      simp [e]
  · have whole := more.bay b
    rw [one.bay b] at whole
    exact whole
  · rcases h with h | ⟨j, hj, r, hr, hb⟩
    · exact .inl (one.bound b (.inl h))
    · by_cases e : j = i
      · exact .inl (one.bound b (.inr ⟨j, List.mem_singleton.2 e, r, hr, hb⟩))
      · exact .inr ⟨j, (List.mem_cons.1 hj).resolve_left e, r, by rw [record j e, hr], hb⟩
  · have sum : l.map (t.bindingOn f) = l.map (s.bindingOn f) :=
      List.map_congr_left fun j hj => one.bindingOn f fun h => elsewhere hj (List.mem_singleton.1 h)
    rw [more.feeder f, one.feeder f, sum]
    simp [Nat.sub_sub]
  · rw [more.free, one.free, later _ fun j hj => by rw [record j hj], List.append_assoc, ← List.filter_append]
    rfl
  · rw [more.high, one.high, waiting]
  · rw [more.normal, one.normal, waiting]
  · exact ⟨more.notices.1.trans one.notices.1, more.notices.2.trans one.notices.2⟩

end State.Retired

/-- No slot retired. -/
theorem State.Retired.nil (s : State) (o : Ending) : s.Retired s o [] :=
  ⟨rfl, fun _ => by simp, fun _ => rfl, fun _ h => h.resolve_right (by simp), fun _ => by simp, by simp, by simp, by simp, rfl, rfl⟩

/-- Step 3 of a RESET (R73): the records of the slots of a list retired one after another. -/
theorem State.retired_foldl (o : Ending) (l : List SlotNo) (distinct : l.Nodup) (s : State) :
    s.Retired (l.foldl (fun t i => t.retire i o) s) o l := by
  induction l generalizing s with
  | nil => exact .nil s o
  | cons i l ih =>
    obtain ⟨fresh, distinct⟩ := List.nodup_cons.1 distinct
    exact (s.retired_one i o).cons (ih distinct _) fresh

/-! ### Step 5: the bays by their last occupancy -/

/-- A bay after RESET (R45). -/
def Bay.reset (x : Bay) : Bay :=
  if x.state.inService then x.enter (match x.occupancy with | .empty => .free | .occupied => .identifying) else x

/-- Whether RESET leaves a bay identifying. -/
def Bay.identifies (x : Bay) : Bool := x.state.inService && x.occupancy == .occupied

theorem State.bay_resetBay (s : State) (b y : BayNo) : (s.resetBay b).bay y = if y = b then (s.bay y).reset else s.bay y := by
  have entered (st : BayState) : (s.enter b st).bay y = if y = b then (s.bay y).enter st else s.bay y := s.bay_modBay b y _
  have started : (s.startIdentifying b).bay y = (s.enter b .identifying).bay y := rfl
  unfold State.resetBay Bay.reset
  by_cases e : y = b
  · subst e
    split
    · cases (s.bay y).occupancy with
      | empty => exact entered .free
      | occupied => exact started.trans (entered .identifying)
    · rw [if_pos rfl]
  · rw [if_neg e]
    split
    · split
      · rw [entered, if_neg e]
      · rw [started, entered, if_neg e]
    · rfl

theorem State.rest_resetBay (s : State) (b : BayNo) :
    { s.resetBay b with bays := s.bays, deadlines := s.deadlines } = s := by
  unfold State.resetBay
  split
  · split <;> rfl
  · rfl

/-- The IDENTIFY_END a RESET inserts for a bay. -/
def State.resetDeadline (s : State) (b : BayNo) : Deadline := ⟨.identifyEnd, .bay b, s.dueIn s.identifyTime⟩

theorem State.deadlines_resetBay (s : State) (b : BayNo) (due : ∀ d ∈ s.deadlines, d.due = s.dueIn s.identifyTime)
    (other : ∀ d ∈ s.deadlines, d.owner ≠ .bay b) :
    (s.resetBay b).deadlines = s.deadlines ++ if (s.bay b).identifies then [s.resetDeadline b] else [] := by
  have last : insertByDue (s.resetDeadline b) s.deadlines = s.deadlines ++ [s.resetDeadline b] := by
    have all : ∀ ds : List Deadline, (∀ d ∈ ds, d.due = s.dueIn s.identifyTime) →
        insertByDue (s.resetDeadline b) ds = ds ++ [s.resetDeadline b] := by
      intro ds
      induction ds with
      | nil => exact fun _ => rfl
      | cons d ds ih =>
        intro h
        have here : ¬(s.resetDeadline b).due < d.due := by
          rw [h d List.mem_cons_self]
          exact Nat.lt_irrefl _
        rw [insertByDue, if_neg here, ih fun e he => h e (List.mem_cons_of_mem _ he)]
        rfl
    exact all _ due
  have kept : (s.deadlines.filter fun d => d.owner != .bay b) = s.deadlines :=
    List.filter_eq_self.2 fun d hd => by simpa using other d hd
  have started : (s.startIdentifying b).deadlines = s.deadlines ++ [s.resetDeadline b] := by
    rw [← last]
    exact congrArg (insertByDue _) kept
  unfold State.resetBay Bay.identifies
  cases (s.bay b).state.inService with
  | false => simp
  | true =>
    cases (s.bay b).occupancy with
    | empty => simp [State.enter]
    | occupied => simpa using started

/-- `t` is `s` with bays and deadlines changed. -/
def State.BaysOf (s t : State) : Prop := { t with bays := s.bays, deadlines := s.deadlines } = s

theorem State.baysOf_resetBays (l : List BayNo) (s : State) : s.BaysOf (l.foldl State.resetBay s) :=
  foldl_keeps (P := s.BaysOf) State.resetBay (fun t b h =>
    (congrArg (fun x : State => { x with bays := s.bays, deadlines := s.deadlines }) (t.rest_resetBay b) :).trans h) _ _ rfl

/-- Step 5 of a RESET inserts the IDENTIFY_ENDs in ascending bay number. -/
theorem State.deadlines_resetBays (l : List BayNo) (distinct : l.Nodup) (s : State)
    (due : ∀ d ∈ s.deadlines, d.due = s.dueIn s.identifyTime) (other : ∀ d ∈ s.deadlines, ∀ b ∈ l, d.owner ≠ .bay b) :
    (l.foldl State.resetBay s).deadlines =
      s.deadlines ++ (l.filter fun b => (s.bay b).identifies).map s.resetDeadline := by
  induction l generalizing s with
  | nil => simp
  | cons b l ih =>
    obtain ⟨fresh, distinct⟩ := List.nodup_cons.1 distinct
    have rest := s.rest_resetBay b
    have clock : (s.resetBay b).clock = s.clock := (congrArg State.clock rest :)
    have plan_eq : (s.resetBay b).plan = s.plan := (congrArg State.plan rest :)
    have same : (s.resetBay b).dueIn (s.resetBay b).identifyTime = s.dueIn s.identifyTime := by
      simp only [State.dueIn, State.identifyTime, clock, plan_eq]
    have entry (y : BayNo) : (s.resetBay b).resetDeadline y = s.resetDeadline y := by
      simp only [State.resetDeadline, same]
    have now := s.deadlines_resetBay b due fun d hd => other d hd b List.mem_cons_self
    have picked : l.filter (fun y => ((s.resetBay b).bay y).identifies) = l.filter fun y => (s.bay y).identifies :=
      List.filter_congr fun y hy => by rw [s.bay_resetBay b y, if_neg fun e : y = b => fresh (e ▸ hy)]
    rw [List.foldl_cons, ih distinct (s.resetBay b) ?_ ?_, now, picked, List.filter_cons, funext entry]
    · cases (s.bay b).identifies <;> simp
    · intro d hd
      rw [now] at hd
      rw [same]
      rcases List.mem_append.1 hd with hd | hd
      · exact due d hd
      · split at hd
        · rw [List.mem_singleton.1 hd]
          rfl
        · cases hd
    · intro d hd y hy
      rw [now] at hd
      rcases List.mem_append.1 hd with hd | hd
      · exact other d hd y (List.mem_cons_of_mem _ hy)
      · split at hd
        · rw [List.mem_singleton.1 hd]
          intro e
          cases e
          exact fresh hy
        · cases hd

/-! ### Step 6: the lanes -/

theorem State.lane_modLane (s : State) (k l : LaneNo) (f : Lane → Lane) :
    (s.modLane k f).lane l = if l = k then f (s.lane l) else s.lane l := by
  by_cases h : l = k
  · subst h
    rw [State.lane_modLane_self, if_pos rfl]
  · rw [State.lane_modLane_ne _ _ _ _ h, if_neg h]

/-- The lanes flushed (R172). -/
theorem State.flushed_foldl (s : State) :
    { allLanes.foldl (fun t l => t.modLane l Lane.flushed) s with lanes := s.lanes } = s ∧
      ∀ l, (allLanes.foldl (fun t l => t.modLane l Lane.flushed) s).lane l = (s.lane l).flushed := by
  refine ⟨foldl_keeps (P := fun t : State => { t with lanes := s.lanes } = s) (fun t l => t.modLane l Lane.flushed)
    (fun t l h => h) _ _ rfl, fun l => ?_⟩
  rw [← finRange_lanes, read_foldl_pointwise State.lane _ (fun _ x => x.flushed) (fun t k l => t.lane_modLane k l _) _
    (List.nodup_finRange 4), if_pos (List.mem_finRange l)]

/-- The zero STOP of a bay that has none outstanding. -/
def State.zeroStopOf (s : State) (b : BayNo) : GrantOrder := ⟨0, .stop, decide (0 < (s.grant b).acknowledged)⟩

/-- The entry of a zero STOP. -/
def State.stopEntry (s : State) (b : BayNo) : Entry := ⟨b, some (s.zeroStopOf b), false, false⟩

theorem State.handGrant_stop (h : (s.grant b).outstanding = none) :
    { s.handGrant b 0 .stop with grants := s.grants, lanes := s.lanes } = s ∧
      (∀ y, (s.handGrant b 0 .stop).grant y = if y = b then { s.grant y with outstanding := some (s.zeroStopOf y) } else s.grant y) ∧
      ∀ l, (∀ e ∈ (s.lane l).queue, e.grant.isSome = true) → (s.handGrant b 0 .stop).lane l =
        { s.lane l with queue := (s.lane l).queue ++ if laneOf b == l then [s.stopEntry b] else [] } := by
  have order : (⟨0, .stop, decide (0 < (s.grant b).committed)⟩ : GrantOrder) = s.zeroStopOf b := by
    simp [State.zeroStopOf, Grants.committed, h]
  rw [State.handGrant_eq, order]
  refine ⟨rfl, fun y => ?_, fun l plain => ?_⟩
  · by_cases e : y = b
    · subst e
      rw [if_pos rfl]
      simp [State.grant]
    · rw [if_neg e]
      exact Vector.getElem_set_ne b.isLt y.isLt fun h : b.val = y.val => e (Fin.ext h.symm)
  · by_cases e : laneOf b = l
    · subst e
      have unmerged : ∀ e ∈ (s.lane (laneOf b)).queue, e.mergesAt b = false := fun e he => by
        obtain ⟨o, ho⟩ := Option.isSome_iff_exists.1 (plain e he)
        simp [Entry.mergesAt, ho]
      rw [queueGrant_plain _ unmerged, beq_self_eq_true, if_pos rfl]
      exact Vector.getElem_set_self (laneOf b).isLt
    · have other : (laneOf b == l) = false := by simpa using e
      rw [other]
      simp only [Bool.false_eq_true, if_false, List.append_nil]
      exact Vector.getElem_set_ne (laneOf b).isLt l.isLt fun h => e (Fin.ext h)

/-- `t` is `s` with a zero STOP handed to the unit of each bay of `l`, in that order. -/
structure State.Stopped (s t : State) (l : List BayNo) : Prop where
  rest : { t with grants := s.grants, lanes := s.lanes } = s
  grant : ∀ b, t.grant b = if b ∈ l then { s.grant b with outstanding := some (s.zeroStopOf b) } else s.grant b
  lane : ∀ k, t.lane k = { s.lane k with queue := (s.lane k).queue ++ (l.filter fun b => laneOf b == k).map s.stopEntry }

theorem State.stopped_foldl (l : List BayNo) (distinct : l.Nodup) (s : State) (idle : ∀ b ∈ l, (s.grant b).outstanding = none)
    (plain : ∀ k, ∀ e ∈ (s.lane k).queue, e.grant.isSome = true) :
    s.Stopped (l.foldl (fun t b => t.handGrant b 0 .stop) s) l := by
  induction l generalizing s with
  | nil => exact ⟨rfl, fun b => by simp, fun k => by simp⟩
  | cons b l ih =>
    obtain ⟨fresh, distinct⟩ := List.nodup_cons.1 distinct
    obtain ⟨rest, grant, lane⟩ := State.handGrant_stop (idle b List.mem_cons_self)
    have elsewhere {y : BayNo} (hy : y ∈ l) : y ≠ b := fun e => fresh (e ▸ hy)
    have entry (y : BayNo) (hy : y ∈ l) : (s.handGrant b 0 .stop).stopEntry y = s.stopEntry y := by
      simp only [State.stopEntry, State.zeroStopOf, grant y, if_neg (elsewhere hy)]
    have lane (k : LaneNo) := lane k (plain k)
    obtain ⟨rest', grant', lane'⟩ := ih distinct (s.handGrant b 0 .stop)
      (fun y hy => by rw [grant y, if_neg (elsewhere hy)]; exact idle y (List.mem_cons_of_mem _ hy))
      (fun k e he => by
        rw [lane k] at he
        rcases List.mem_append.1 he with he | he
        · exact plain k e he
        · split at he
          · rw [List.mem_singleton.1 he]
            rfl
          · cases he)
    refine ⟨(congrArg (fun x : State => { x with grants := s.grants, lanes := s.lanes }) rest' :).trans rest, fun y => ?_, fun k => ?_⟩
    · rw [List.foldl_cons, grant' y]
      by_cases e : y = b
      · subst e
        simp [fresh, grant y]
      · simp [e, grant y, State.zeroStopOf]
    · rw [List.foldl_cons, lane' k, lane k, List.filter_cons,
        List.map_congr_left fun y hy => entry y (List.mem_of_mem_filter hy)]
      cases laneOf b == k <;> simp

/-- Whether RESET stops the unit of a bay (R172). -/
def State.stops (s : State) (b : BayNo) : Bool := (s.bay b).place.isSome && (s.unit b).link.reachable

theorem State.zeroStops_eq (s : State) :
    allBays.foldl State.zeroStop s = (allBays.filter s.stops).foldl (fun t b => t.handGrant b 0 .stop) s :=
  foldl_if_eq_foldl_filter (fun t : State => t.bays = s.bays ∧ t.units = s.units) (fun t b => t.stops b) s.stops
    (fun (t : State) b => t.handGrant b 0 .stop)
    (fun t b h => by simp only [State.stops, State.bay, State.unit, h.1, h.2]) (fun _ _ h => h) allBays ⟨rfl, rfl⟩

/-! ### Steps 7 to 9: the run, the offers and the notices -/

/-- The targets of the bays of a list cleared. -/
theorem State.clearTargets_foldl (l : List BayNo) (distinct : l.Nodup) (s : State) :
    { l.foldl State.clearTarget s with bays := s.bays, grants := s.grants } = s ∧
      (∀ b, (l.foldl State.clearTarget s).bay b = if b ∈ l then { s.bay b with starved := false } else s.bay b) ∧
      ∀ b, (l.foldl State.clearTarget s).grant b = if b ∈ l then { s.grant b with target := 0 } else s.grant b := by
  refine ⟨foldl_keeps (P := fun t : State => { t with bays := s.bays, grants := s.grants } = s) State.clearTarget
    (fun t b h => h) _ _ rfl, fun b => ?_, fun b => ?_⟩
  · refine read_foldl_pointwise State.bay State.clearTarget (fun _ x => { x with starved := false }) (fun t b y => ?_) l distinct s b
    unfold State.clearTarget
    exact State.bay_modBay _ _ _ _
  · refine read_foldl_pointwise State.grant State.clearTarget (fun _ x => { x with target := 0 }) (fun t b y => ?_) l distinct s b
    unfold State.clearTarget
    rw [State.grant_modBay, State.grant_modGrant]

/-- Nobody on the lists has a record: an offer finds nobody. -/
theorem State.offer_unfit (high : ∀ i ∈ s.highList, s.record i = none) (normal : ∀ i ∈ s.normalList, s.record i = none) :
    s.offer b = s := by
  have served (ratio : RatioSetting) (n : Nat) : serveRatio ratio n none none = (none, n) := by
    unfold serveRatio
    split
    · rfl
    · split <;> rfl
  have nobody (l : List SlotNo) (h : ∀ i ∈ l, s.record i = none) : l.find? (s.fits b) = none :=
    List.find?_eq_none.2 fun i hi => by simp [State.fits, h i hi]
  cases hplan : s.plan with
  | none => simp only [State.offer, hplan]
  | some plan =>
    rw [State.offer_eq hplan, nobody _ high, nobody _ normal]
    dsimp only
    rw [served]

theorem State.offerFreeBays_unfit (high : ∀ i ∈ s.highList, s.record i = none) (normal : ∀ i ∈ s.normalList, s.record i = none) :
    s.offerFreeBays = s :=
  foldl_fixed _ s _ fun b _ => by
    split
    · exact State.offer_unfit high normal
    · rfl

/-- CHANGES alone is set of cleared notices. -/
theorem Notices.status_evaluate_cleared {n : Notices} (clear : n.status = 0) (count : Nat) :
    (n.evaluate count).status = if n.threshold ≤ count then 1 else 0 := by
  rw [Notices.evaluate_eq, clear]
  by_cases reached : n.threshold ≤ count
  · simp [reached]
  · simp [reached]

/-- The notices after RESET (R193). -/
theorem State.notices_resetNotices (s : State) :
    s.resetNotices.notices.mask = s.notices.mask ∧ s.resetNotices.notices.threshold = s.notices.threshold ∧
      s.resetNotices.notices.status = if s.notices.threshold ≤ s.markedCount then 1 else 0 := by
  obtain ⟨mask, threshold⟩ := ({ s.notices with status := 0 } : Notices).drive.kept_evaluate s.markedCount
  exact ⟨mask, threshold, Notices.status_evaluate_cleared rfl _⟩

/-- A bay whose unit has an entry that waits takes no further aspect order without a flash. -/
theorem State.aspectOrder_waiting (waits : (s.unit b).link.reachable = true →
    ∃ e ∈ (s.lane (laneOf b)).queue, e.bay = b ∧ e.onLine = false) : s.aspectOrder b false = s := by
  unfold State.aspectOrder
  split
  · next reachable =>
    obtain ⟨e, he, here⟩ := waits reachable
    have queued : ((s.lane (laneOf b)).queue.any fun e => e.bay == b && !e.onLine) = true :=
      List.any_eq_true.2 ⟨e, he, by simp [here]⟩
    have kept : queueAspect b false (s.lane (laneOf b)).queue = (s.lane (laneOf b)).queue := by
      unfold queueAspect
      rw [if_pos queued] <;> rfl
    have same : s.lanes.set (laneOf b).val (s.lane (laneOf b)) = s.lanes := Vector.set_getElem_self _
    unfold State.modLane
    dsimp only
    rw [show s.lanes[(laneOf b).val] = s.lane (laneOf b) from rfl, kept, same]
  · rfl

/-- The want of a feeder with no session (R124). -/
theorem State.wantOf_idle {plan : Plan} {f : FeederNo} {p : FeederPlan} (idle : ∀ b, s.charging b = false) (hplan : s.plan = some plan)
    (hp : plan.feeders.find? (·.number == f) = some p) :
    s.wantOf f = match plan.site.mode with
      | .pooled => min p.limit (s.feeder f).stranded
      | .quota => min (min p.limit (s.feeder f).stranded) (s.siteBudget * p.quota / 256) := by
  have record : s.feederPlan f = some p := by simp only [State.feederPlan, hplan, Option.bind_some, hp]
  simp only [State.wantOf, hplan, record, State.sessionsOn_idle idle]
  cases plan.site.mode <;> rfl

/-! ### The reset in two halves -/

/-- `u` with all that steps 2 to 5 of a RESET write taken from `s`. -/
def State.unreset (s u : State) : State :=
  { u with
    bays := s.bays, slots := s.slots, grants := s.grants, freeSlots := s.freeSlots, highList := s.highList
    normalList := s.normalList, ratioCount := s.ratioCount, deadlines := s.deadlines, curtailment := s.curtailment
    feeders := s.feeders, notices := s.notices }

/-- What steps 2 to 5 of a RESET leave of `s`. -/
structure State.Cleared (s u : State) : Prop where
  rest : s.unreset u = s
  curtailment : u.curtailment = 0
  ratio : u.ratioCount = 0
  record : ∀ i, u.record i = none
  retired : ∀ i r, s.record i = some r →
    (u.slot i).lastOutcome = some .reset ∧ (u.slot i).mark = true ∧ (u.slot i).generation = nextGeneration (s.slot i).generation
  vacant : ∀ i, s.record i = none → u.slot i = s.slot i
  free : u.freeSlots = s.freeSlots ++ allSlots.filter fun i => (s.record i).isSome
  high : u.highList = s.highList.filter fun i => (s.record i).isNone
  normal : u.normalList = s.normalList.filter fun i => (s.record i).isNone
  bay : ∀ b, u.bay b = { s.bay b with
    state := (u.bay b).state, reason := (u.bay b).reason, aspect := (u.bay b).aspect, bound := (u.bay b).bound
    keptHold := (u.bay b).keptHold, starved := (u.bay b).starved }
  bound : ∀ b, (s.bay b).bound = none ∧ (s.bay b).keptHold = false ∨ (∃ i r, s.record i = some r ∧ r.bay = some b) →
    (u.bay b).bound = none ∧ (u.bay b).keptHold = false
  inService : ∀ b, (s.bay b).state.inService = true → ∃ y : Bay,
    u.bay b = y.enter (match (s.bay b).occupancy with | .empty => .free | .occupied => .identifying)
  outside : ∀ b, (s.bay b).state.inService = false →
    (u.bay b).state = (s.bay b).state ∧ (u.bay b).reason = (s.bay b).reason ∧ (u.bay b).aspect = (s.bay b).aspect
  deadlines : u.deadlines = (allBays.filter fun b => (s.bay b).identifies).map s.resetDeadline
  grant : ∀ b, u.grant b = (s.grant b).dropped
  feeder : ∀ f, u.feeder f = { s.feeder f with pledge := (s.feeder f).pledge - (allSlots.map (s.bindingOn f)).sum }
  notices : u.notices.mask = s.notices.mask ∧ u.notices.threshold = s.notices.threshold

namespace State.OrdersDropped

theorem bay_record (h : s.OrdersDropped t) (i : SlotNo) : (t.record i).bind (·.bay) = (s.record i).bind (·.bay) := by
  have same := h.bound i
  cases ht : t.record i <;> cases hs : s.record i <;> simp_all

theorem isSome_record (h : s.OrdersDropped t) (i : SlotNo) : (t.record i).isSome = (s.record i).isSome := by
  have same := congrArg Option.isSome (h.bound i)
  rwa [Option.isSome_map, Option.isSome_map] at same

theorem record_none (h : s.OrdersDropped t) {i : SlotNo} (hr : s.record i = none) : t.record i = none := by
  have same := h.isSome_record i
  rw [hr] at same
  exact Option.isSome_eq_false_iff.1 same |> Option.isNone_iff_eq_none.1

theorem slot_vacant (h : s.OrdersDropped t) {i : SlotNo} (hr : s.record i = none) : t.slot i = s.slot i := by
  have none_ : (t.slot i).record = none := h.record_none hr
  have here : (s.slot i).record = none := hr
  rw [← h.slot i, here, ← none_]

theorem bindingOn (h : s.OrdersDropped t) (f : FeederNo) (i : SlotNo) : t.bindingOn f i = s.bindingOn f i := by
  have place (b : BayNo) : (t.bay b).place = (s.bay b).place := by rw [h.bay b]
  unfold State.bindingOn
  rw [h.bay_record i]
  simp only [place]

end State.OrdersDropped

theorem Bay.reset_eq (x : Bay) :
    x.reset = { x with state := x.reset.state, reason := x.reset.reason, aspect := x.reset.aspect } := by
  unfold Bay.reset
  split <;> rfl

/-- Steps 3 to 5, from a state whose orders have been dropped. -/
theorem State.cleared_of_retired {w x : State} (dropped : s.OrdersDropped t) (grants : ∀ b, t.grant b = (s.grant b).dropped)
    (table : t.Retired w .reset allSlots) (start : x = { w with ratioCount := 0, deadlines := [], curtailment := 0 })
    (kept : x.BaysOf u) (bays : ∀ b, u.bay b = (x.bay b).reset)
    (deadlines : u.deadlines = (allBays.filter fun b => (x.bay b).identifies).map x.resetDeadline) : s.Cleared u := by
  have rest : s.unreset u = s := calc
    s.unreset u = s.unreset x := (congrArg s.unreset kept :)
    _ = s.unreset w := by rw [start] <;> rfl
    _ = s.unreset t := (congrArg s.unreset table.rest :)
    _ = s := (congrArg s.unreset dropped.rest :)
  have bay_x (b : BayNo) : x.bay b = { t.bay b with bound := (x.bay b).bound, keptHold := (x.bay b).keptHold } := by
    have same := table.bay b
    rw [start]
    exact same
  have slot_u (i : SlotNo) : u.slot i = w.slot i := by
    have same := (congrArg (State.slot · i) kept :)
    rw [start] at same
    exact same
  have record_u (i : SlotNo) : u.record i = none := by
    have gone := table.record i
    rw [if_pos (mem_allSlots i)] at gone
    unfold State.record at gone ⊢
    rw [slot_u i, gone]
  have list_u : u.freeSlots = w.freeSlots ∧ u.highList = w.highList ∧ u.normalList = w.normalList := by
    rw [start] at kept
    exact ⟨(congrArg State.freeSlots kept :), (congrArg State.highList kept :), (congrArg State.normalList kept :)⟩
  have waiting (q : List SlotNo) : (q.filter fun i => !(allSlots.contains i && (t.record i).isSome)) =
      q.filter fun i => (s.record i).isNone := List.filter_congr fun i _ => by
    simp [dropped.isSome_record i, mem_allSlots i]
  have lamps (b : BayNo) (same : (x.bay b).state.inService = false) : u.bay b = x.bay b := by
    rw [bays b]
    exact if_neg (by rw [same]; decide)
  have service (b : BayNo) : (x.bay b).state.inService = (s.bay b).state.inService := by
    rw [bay_x b]
    exact dropped.service b
  have occupancy (b : BayNo) : (x.bay b).occupancy = (s.bay b).occupancy := by rw [bay_x b, dropped.bay b]
  obtain ⟨free, high, normal⟩ := list_u
  refine ⟨rest, ?_, ?_, record_u, fun i r hr => ?_, fun i hr => ?_, ?_, ?_, ?_, fun b => ?_, fun b h => ?_, fun b h => ?_,
    fun b h => ?_, ?_, fun b => ?_, fun f => ?_, ?_⟩
  · rw [start] at kept
    exact (congrArg State.curtailment kept :)
  · rw [start] at kept
    exact (congrArg State.ratioCount kept :)
  · have live : (t.record i).isSome = true := by rw [dropped.isSome_record i, hr]; rfl
    rw [slot_u i, table.slot i, if_pos ⟨mem_allSlots i, live⟩]
    exact ⟨rfl, rfl, congrArg nextGeneration (congrArg Slot.generation (dropped.slot i) :)⟩
  · rw [slot_u i, table.slot i, if_neg fun h => by rw [dropped.record_none hr] at h; exact Bool.noConfusion h.2, dropped.slot_vacant hr]
  · rw [free, table.free, (congrArg State.freeSlots dropped.rest :)]
    exact congrArg (s.freeSlots ++ ·) (List.filter_congr fun i _ => dropped.isSome_record i)
  · rw [high, table.high, waiting, (congrArg State.highList dropped.rest :)]
  · rw [normal, table.normal, waiting, (congrArg State.normalList dropped.rest :)]
  · rw [bays b, Bay.reset_eq, bay_x b, dropped.bay b]
  · have here : (t.bay b).bound = none ∧ (t.bay b).keptHold = false ∨
        (∃ i ∈ allSlots, ∃ r, t.record i = some r ∧ r.bay = some b) := by
      rcases h with h | ⟨i, r, hr, hb⟩
      · rw [dropped.bay b]
        exact .inl h
      · have held : (t.record i).bind (·.bay) = some b := by rw [dropped.bay_record i, hr]; exact hb
        obtain ⟨r', hr', hb'⟩ := Option.bind_eq_some_iff.1 held
        exact .inr ⟨i, mem_allSlots i, r', hr', hb'⟩
    have gone := table.bound b here
    have same : (u.bay b).bound = (w.bay b).bound ∧ (u.bay b).keptHold = (w.bay b).keptHold := by
      rw [bays b, Bay.reset_eq, start]
      exact ⟨rfl, rfl⟩
    rw [same.1, same.2]
    exact gone
  · refine ⟨x.bay b, ?_⟩
    rw [bays b, ← occupancy b]
    exact if_pos (by rw [service b, h])
  · rw [lamps b (by rw [service b, h]), bay_x b]
    exact dropped.outside b h
  · have pick : (allBays.filter fun b => (x.bay b).identifies) = allBays.filter fun b => (s.bay b).identifies :=
      List.filter_congr fun b _ => by simp only [Bay.identifies, service b, occupancy b]
    have entry : x.resetDeadline = s.resetDeadline := by
      have earlier : s.unreset x = s := (congrArg s.unreset kept :).symm.trans rest
      have clock : x.clock = s.clock := (congrArg State.clock earlier :)
      have plan_eq : x.plan = s.plan := (congrArg State.plan earlier :)
      funext b
      simp only [State.resetDeadline, State.dueIn, State.identifyTime, clock, plan_eq]
    rw [deadlines, pick, entry]
  · rw [← grants b]
    rw [start] at kept
    exact ((congrArg (State.grant · b) kept :) : u.grant b = w.grant b).trans (congrArg (State.grant · b) table.rest :)
  · have sum : allSlots.map (t.bindingOn f) = allSlots.map (s.bindingOn f) := List.map_congr_left fun i _ => dropped.bindingOn f i
    have last : u.feeder f = w.feeder f := by
      rw [start] at kept
      exact (congrArg (State.feeder · f) kept :)
    have first : t.feeder f = s.feeder f := (congrArg (State.feeder · f) dropped.rest :)
    rw [last, table.feeder f, sum, first]
  · have last : u.notices = w.notices := by
      rw [start] at kept
      exact (congrArg State.notices kept :)
    have first : t.notices = s.notices := (congrArg State.notices dropped.rest :)
    rw [last, ← first]
    exact table.notices

/-- What steps 6 to 9 of a RESET leave of `u`, which has no record and no order. -/
structure State.Restarted (u t : State) : Prop where
  rest : { t with
    bays := u.bays, grants := u.grants, lanes := u.lanes, feeders := u.feeders, effective := u.effective
    notices := u.notices } = u
  bay : ∀ b, t.bay b = { u.bay b with starved := false }
  grant : ∀ b, t.grant b = { u.grant b with target := 0, outstanding := if u.stops b then some (u.zeroStopOf b) else none }
  lane : ∀ l, t.lane l = { u.lane l with
    queue := (allBays.filter fun b => laneOf b == l && u.stops b).map u.stopEntry
    line := (u.lane l).line.map fun x => { x with dropped := x.order.isSome } }
  effective : t.effective = u.siteBudget
  feeder : ∀ f, (t.feeder f).pledge = (u.feeder f).pledge ∧ (t.feeder f).stranded = (u.feeder f).stranded ∧
    (t.feeder f).monitor = (u.feeder f).monitor ∧ (t.feeder f).want = u.wantOf f
  notices : t.notices.mask = u.notices.mask ∧ t.notices.threshold = u.notices.threshold ∧
    t.notices.status = if u.notices.threshold ≤ u.markedCount then 1 else 0

/-- Step 6 from a state with no order outstanding. -/
theorem State.resetLanes_spec (idle : ∀ b, (u.grant b).outstanding = none) :
    { u.resetLanes with grants := u.grants, lanes := u.lanes } = u ∧
      (∀ b, u.resetLanes.grant b = { u.grant b with outstanding := if u.stops b then some (u.zeroStopOf b) else none }) ∧
      ∀ l, u.resetLanes.lane l = { u.lane l with
        queue := (allBays.filter fun b => laneOf b == l && u.stops b).map u.stopEntry
        line := (u.lane l).line.map fun x => { x with dropped := x.order.isSome } } := by
  obtain ⟨flushedRest, flushedLane⟩ := u.flushed_foldl
  unfold State.resetLanes
  generalize allLanes.foldl (fun t l => t.modLane l Lane.flushed) u = v at flushedRest flushedLane
  have grant (b : BayNo) : v.grant b = u.grant b := (congrArg (State.grant · b) flushedRest :)
  have entry : v.stopEntry = u.stopEntry := funext fun b => by simp only [State.stopEntry, State.zeroStopOf, grant]
  have order : v.zeroStopOf = u.zeroStopOf := funext fun b => by simp only [State.zeroStopOf, grant]
  have stops : v.stops = u.stops := by
    have bays : v.bays = u.bays := (congrArg State.bays flushedRest :)
    have units : v.units = u.units := (congrArg State.units flushedRest :)
    funext b
    simp only [State.stops, State.bay, State.unit, bays, units]
  have stopped := State.stopped_foldl (allBays.filter v.stops) (nodup_allBays.filter _) v
    (fun b _ => by rw [grant b]; exact idle b)
    (fun k e he => by rw [flushedLane k] at he; cases he)
  rw [v.zeroStops_eq]
  obtain ⟨rest, grants, lanes⟩ := stopped
  have whole := (congrArg (fun x : State => { x with grants := u.grants, lanes := u.lanes }) rest :)
  have first := (congrArg (fun x : State => { x with grants := u.grants }) flushedRest :)
  refine ⟨whole.trans first, fun b => ?_, fun l => ?_⟩
  · rw [grants b, grant b, stops, order]
    have here : (b ∈ allBays.filter u.stops) ↔ u.stops b = true := by simp [mem_allBays b]
    by_cases e : u.stops b = true
    · rw [if_pos (here.2 e), if_pos e]
    · rw [if_neg fun h => e (here.1 h), if_neg e, ← idle b]
  · rw [lanes l, flushedLane l, stops, entry, List.filter_filter]
    rfl

theorem State.charging_vacant (vacant : ∀ i, s.record i = none) (b : BayNo) : s.charging b = false := by
  unfold State.charging State.sessionAt
  cases (s.bay b).bound with
  | none => rfl
  | some i => simp only [vacant i] <;> rfl

/-- The run of a RESET. -/
structure State.RanIdle (v w : State) : Prop where
  rest : { w with bays := v.bays, grants := v.grants, feeders := v.feeders, effective := v.effective } = v
  bay : ∀ b, w.bay b = { v.bay b with starved := false }
  grant : ∀ b, w.grant b = { v.grant b with target := 0 }
  effective : w.effective = v.siteBudget
  feeder : ∀ f, (w.feeder f).pledge = (v.feeder f).pledge ∧ (w.feeder f).stranded = (v.feeder f).stranded ∧
    (w.feeder f).monitor = (v.feeder f).monitor ∧ (w.feeder f).want = v.wantOf f

theorem State.ranIdle {v w x : State} {feeders : FeederNo → Feeder} {e : Nat}
    (written : x = { v with effective := e, feeders := Vector.ofFn feeders }) (budget : e = v.siteBudget)
    (feeder : ∀ f, (feeders f).pledge = (v.feeder f).pledge ∧ (feeders f).stranded = (v.feeder f).stranded ∧
      (feeders f).monitor = (v.feeder f).monitor ∧ (feeders f).want = v.wantOf f)
    (rest : { w with bays := x.bays, grants := x.grants } = x) (bay : ∀ b, w.bay b = { x.bay b with starved := false })
    (grant : ∀ b, w.grant b = { x.grant b with target := 0 }) : v.RanIdle w := by
  have feeder_w (f : FeederNo) : w.feeder f = feeders f := by
    have same : w.feeder f = x.feeder f := (congrArg (State.feeder · f) rest :)
    rw [same, written]
    exact Vector.getElem_ofFn f.isLt
  have effective : w.effective = x.effective := (congrArg State.effective rest :)
  refine ⟨?_, fun b => ?_, fun b => ?_, ?_, fun f => by rw [feeder_w f]; exact feeder f⟩
  · have first := (congrArg (fun y : State => { y with
      bays := v.bays, grants := v.grants, feeders := v.feeders, effective := v.effective }) rest :)
    rw [written] at first
    exact first
  · rw [bay b, written]
    rfl
  · rw [grant b, written]
    rfl
  · rw [effective, written]
    exact budget

theorem State.allocationRun_ranIdle {v : State} (idle : ∀ b, v.charging b = false) (unheld : ∀ b, (v.grant b).heldBack = none) :
    v.RanIdle v.allocationRun := by
  obtain ⟨rest, bay, grant⟩ := v.writeBudgets.clearTargets_foldl allBays nodup_allBays
  rw [State.allocationRun_idle idle unheld]
  exact State.ranIdle v.writeBudgets_eq rfl (fun f => ⟨rfl, rfl, rfl, rfl⟩) rest (fun b => (bay b).trans (if_pos (mem_allBays b)))
    fun b => (grant b).trans (if_pos (mem_allBays b))

/-- Steps 6 to 9 from a state with no record and no order, with the lanes and the run given. -/
theorem State.restarted_of_run {v w t : State} (idle : ∀ b, (u.grant b).outstanding = none) (lanes : v = u.resetLanes)
    (run : v.RanIdle w) (want : ∀ f, v.wantOf f = u.wantOf f) (rest : { t with notices := w.notices } = w)
    (notices : t.notices.mask = w.notices.mask ∧ t.notices.threshold = w.notices.threshold ∧
      t.notices.status = if w.notices.threshold ≤ w.markedCount then 1 else 0) : u.Restarted t := by
  obtain ⟨lanesRest, lanesGrant, lanesLane⟩ := State.resetLanes_spec idle
  rw [← lanes] at lanesRest lanesGrant lanesLane
  have first := (congrArg (fun y : State => { y with
    bays := u.bays, grants := u.grants, lanes := u.lanes, feeders := u.feeders, effective := u.effective
    notices := u.notices }) rest :)
  have second := (congrArg (fun y : State => { y with
    bays := u.bays, grants := u.grants, lanes := u.lanes, feeders := u.feeders, effective := u.effective
    notices := u.notices }) run.rest :)
  have third := (congrArg (fun y : State => { y with
    bays := u.bays, feeders := u.feeders, effective := u.effective, notices := u.notices }) lanesRest :)
  have bay_v (b : BayNo) : v.bay b = u.bay b := (congrArg (State.bay · b) lanesRest :)
  have bay_t (b : BayNo) : t.bay b = w.bay b := (congrArg (State.bay · b) rest :)
  have grant_t (b : BayNo) : t.grant b = w.grant b := (congrArg (State.grant · b) rest :)
  have lane_t (l : LaneNo) : t.lane l = w.lane l := (congrArg (State.lane · l) rest :)
  have lane_w (l : LaneNo) : w.lane l = v.lane l := (congrArg (State.lane · l) run.rest :)
  have effective_t : t.effective = w.effective := (congrArg State.effective rest :)
  have budget : v.siteBudget = u.siteBudget := by
    have plan_eq : v.plan = u.plan := (congrArg State.plan lanesRest :)
    have curtailment : v.curtailment = u.curtailment := (congrArg State.curtailment lanesRest :)
    simp only [State.siteBudget, State.siteLimit, plan_eq, curtailment]
  have feeder_t (f : FeederNo) : t.feeder f = w.feeder f := (congrArg (State.feeder · f) rest :)
  have feeder_v (f : FeederNo) : v.feeder f = u.feeder f := (congrArg (State.feeder · f) lanesRest :)
  have notices_w : w.notices = u.notices := by
    have a : w.notices = v.notices := (congrArg State.notices run.rest :)
    have b : v.notices = u.notices := (congrArg State.notices lanesRest :)
    rw [a, b]
  have marked : w.markedCount = u.markedCount := by
    have a : w.slots = v.slots := (congrArg State.slots run.rest :)
    have b : v.slots = u.slots := (congrArg State.slots lanesRest :)
    simp only [State.markedCount, a, b]
  refine ⟨first.trans (second.trans third), fun b => ?_, fun b => ?_, fun l => ?_, ?_, fun f => ?_, ?_⟩
  · rw [bay_t b, run.bay b, bay_v b]
  · rw [grant_t b, run.grant b, lanesGrant b]
  · rw [lane_t l, lane_w l, lanesLane l]
  · rw [effective_t, run.effective, budget]
  · have same := run.feeder f
    rw [feeder_t f, ← feeder_v f, ← want f]
    exact same
  · rw [← notices_w, ← marked]
    exact notices

theorem State.rest_resetNotices (s : State) : { s.resetNotices with notices := s.notices } = s := by
  unfold State.resetNotices State.evaluateChanges
  rfl

/-- The wants of two states with no session that differ in what a run does not read. -/
theorem State.wantOf_idle_congr {v : State} (rest : { v with grants := u.grants, lanes := u.lanes } = u)
    (idle : ∀ b, v.charging b = false) (idle_u : ∀ b, u.charging b = false) (f : FeederNo) : v.wantOf f = u.wantOf f := by
  have plan_eq : v.plan = u.plan := (congrArg State.plan rest :)
  have curtailment : v.curtailment = u.curtailment := (congrArg State.curtailment rest :)
  have feeder : v.feeder f = u.feeder f := (congrArg (State.feeder · f) rest :)
  simp only [State.wantOf, State.feederPlan, State.siteBudget, State.siteLimit, plan_eq, curtailment, feeder,
    State.sessionsOn_idle idle, State.sessionsOn_idle idle_u] <;> rfl

/-- Steps 6 to 9 from a state with no record and no order. -/
theorem State.restarted {v : State} (vacant : ∀ i, u.record i = none) (idle : ∀ b, (u.grant b).outstanding = none)
    (unheld : ∀ b, (u.grant b).heldBack = none) (lanes : v = u.resetLanes) :
    u.Restarted (v.allocationRun.offerFreeBays).resetNotices := by
  obtain ⟨lanesRest, lanesGrant, -⟩ := State.resetLanes_spec idle
  rw [← lanes] at lanesRest lanesGrant
  have slots_v : v.slots = u.slots := (congrArg State.slots lanesRest :)
  have nobody := State.charging_vacant fun i => by rw [State.record_of_slots slots_v, vacant i]
  have run := State.allocationRun_ranIdle (v := v) nobody fun b => by rw [lanesGrant b]; exact unheld b
  have want := State.wantOf_idle_congr lanesRest nobody (State.charging_vacant vacant)
  obtain ⟨w, ran⟩ : ∃ w, w = v.allocationRun := ⟨_, rfl⟩
  rw [← ran] at run ⊢
  have slots_w : w.slots = v.slots := (congrArg State.slots run.rest :)
  have vacant_w (i : SlotNo) : w.record i = none := by rw [State.record_of_slots slots_w, State.record_of_slots slots_v, vacant i]
  rw [State.offerFreeBays_unfit (fun i _ => vacant_w i) fun i _ => vacant_w i]
  exact State.restarted_of_run idle lanes run want w.rest_resetNotices w.notices_resetNotices

/-- Steps 3 to 5, with the state after each step given. -/
theorem State.cleared_of_steps {w x : State} (dropped : s.OrdersDropped t) (grants : ∀ b, t.grant b = (s.grant b).dropped)
    (retired : w = allSlots.foldl (fun t i => t.retire i .reset) t)
    (start : x = { w with ratioCount := 0, deadlines := [], curtailment := 0 }) (settled : u = allBays.foldl State.resetBay x) :
    s.Cleared u := by
  have empty : x.deadlines = [] := by rw [start]
  have table := State.retired_foldl .reset allSlots nodup_allSlots t
  have kept := State.baysOf_resetBays allBays x
  have bays := fun b => (read_foldl_pointwise State.bay State.resetBay (fun _ x => x.reset) State.bay_resetBay allBays nodup_allBays
    x b).trans (if_pos (mem_allBays b))
  have deadlines := State.deadlines_resetBays allBays nodup_allBays x (by rw [empty]; exact fun _ h => by cases h)
    (by rw [empty]; exact fun _ h => by cases h)
  rw [empty, List.nil_append] at deadlines
  rw [← settled] at kept bays deadlines
  rw [← retired] at table
  exact State.cleared_of_retired dropped grants table start kept bays deadlines

theorem State.dropAllDeadlines_ratio (w : State) :
    ({ w with ratioCount := 0 } : State).dropAllDeadlines = { w with ratioCount := 0, deadlines := [], curtailment := 0 } := rfl

/-- The RESET, with the state after each step named. -/
theorem State.softReset_eq (s : State) : ∃ s1 t w x u v : State, s1 = ({ s with staged := [] } : State).setSequence none ∧
    t = allBays.foldl State.dropOrders s1 ∧ w = allSlots.foldl (fun t i => t.retire i .reset) t ∧
    x = { w with ratioCount := 0, deadlines := [], curtailment := 0 } ∧ u = allBays.foldl State.resetBay x ∧ v = u.resetLanes ∧
    s.softReset = (v.allocationRun.offerFreeBays).resetNotices := by
  refine ⟨_, _, _, _, _, _, rfl, rfl, rfl, rfl, rfl, rfl, ?_⟩
  rw [← State.dropAllDeadlines_ratio]
  rfl

/-- What the whole RESET leaves. -/
theorem State.softReset_spec (s : State) :
    ∃ u, (({ s with staged := [] } : State).setSequence none).Cleared u ∧ u.Restarted s.softReset := by
  obtain ⟨s1, t, w, x, u, v, first, ended, retired, start, settled, lanes, last⟩ := s.softReset_eq
  obtain ⟨dropped, grants⟩ := s1.ordersDropped_foldl
  rw [← ended] at dropped grants
  have cleared := State.cleared_of_steps dropped grants retired start settled
  rw [last, ← first]
  exact ⟨u, cleared, State.restarted cleared.record (fun b => by rw [cleared.grant b] <;> rfl)
    (fun b => by rw [cleared.grant b] <;> rfl) lanes⟩

/-- Every planned bay of a reachable unit has its zero STOP in its lane's queue: no aspect order joins (R23, R158). -/
theorem State.Restarted.aspectOrders (h : u.Restarted t) (before : State) : State.aspectOrders before t = t := by
  have units : t.units = u.units := (congrArg State.units h.rest :)
  refine foldl_fixed _ t _ fun b _ => ?_
  split
  · next differs =>
    refine State.aspectOrder_waiting fun reachable => ?_
    have planned : (t.bay b).place.isSome = true := by
      simp only [Bool.and_eq_true] at differs
      exact differs.1
    have stops : u.stops b = true := by
      rw [h.bay b] at planned
      simp only [State.unit, units] at reachable
      simp only [State.stops, State.unit, planned, reachable, Bool.and_self]
    rw [h.lane (laneOf b)]
    exact ⟨u.stopEntry b, List.mem_map_of_mem (List.mem_filter.2 ⟨mem_allBays b, by simp [stops]⟩), rfl, rfl⟩
  · rfl

theorem State.stops_eq (s : State) (b : BayNo) : s.stops b =
    ((s.bay b).place.isSome && ((s.unit b).link == .active || (s.unit b).link == .silent)) := by
  unfold State.stops
  cases (s.unit b).link <;> rfl

theorem State.Cleared.stops (h : s.Cleared u) (b : BayNo) : u.stops b = s.stops b := by
  have units : u.units = s.units := (congrArg State.units h.rest :)
  have place : (u.bay b).place = (s.bay b).place := by rw [h.bay b]
  simp only [State.stops, State.unit, units, place]

theorem State.Cleared.zeroStopOf (h : s.Cleared u) (b : BayNo) : u.zeroStopOf b = s.zeroStopOf b := by
  simp only [State.zeroStopOf, h.grant b, Grants.dropped]

theorem finRange_slots : List.finRange 1024 = allSlots := by
  unfold allSlots
  rfl

end Sys2Proof.Machine

open Sys2Proof Sys2Proof.Machine

/-- Settles O57: the steps of the reset one after another, and no aspect order joins its lanes. -/
theorem aSoftResetKeepsThePlan : Obligations.ASoftResetKeepsThePlan := by
  intro s taken
  obtain ⟨u, cleared, restarted⟩ := s.softReset_spec
  have run : exec .reset s = .next (s.softReset.answered .reset .ok []) := by
    rw [exec_reset taken, State.taken, restarted.aspectOrders]
  obtain ⟨t, same⟩ : ∃ t, t = s.softReset := ⟨_, rfl⟩
  rw [← same] at run restarted
  clear same
  have slot (i : SlotNo) : t.slot i = u.slot i := (congrArg (State.slot · i) restarted.rest :)
  have record (i : SlotNo) : t.record i = none := (congrArg (State.record · i) restarted.rest :).trans (cleared.record i)
  have marked : t.markedCount = u.markedCount := State.markedCount_congr (congrArg State.slots restarted.rest :)
  have rest : { t with
      bays := s.bays, slots := s.slots, grants := s.grants, freeSlots := s.freeSlots, highList := s.highList
      normalList := s.normalList, ratioCount := s.ratioCount, deadlines := s.deadlines, curtailment := s.curtailment
      feeders := s.feeders, notices := s.notices, lanes := s.lanes, effective := s.effective } =
      ({ s with staged := [] } : State).setSequence none := by
    have first := (congrArg (fun y : State => ({ s.unreset y with lanes := s.lanes, effective := s.effective } : State)) restarted.rest :)
    have second := (congrArg (fun y : State => ({ y with lanes := s.lanes, effective := s.effective } : State)) cleared.rest :)
    exact first.trans second
  have bay (b : BayNo) : (t.bay b).state = (u.bay b).state ∧ (t.bay b).reason = (u.bay b).reason ∧
      (t.bay b).aspect = (u.bay b).aspect ∧ (t.bay b).bound = (u.bay b).bound ∧ (t.bay b).keptHold = (u.bay b).keptHold := by
    rw [restarted.bay b]
    exact ⟨rfl, rfl, rfl, rfl, rfl⟩
  have stops (b : BayNo) : u.stops b = s.stops b := cleared.stops b
  have order (b : BayNo) : u.zeroStopOf b = s.zeroStopOf b := cleared.zeroStopOf b
  refine ⟨t, run, (congrArg State.plan rest :), (congrArg State.staged rest :), (congrArg State.port rest :),
    (congrArg State.clock rest :), ?_, (congrArg State.counters rest :), (congrArg State.snapshot rest :),
    (congrArg State.sessionSeq rest :), (congrArg State.bookingSeq rest :), (congrArg State.creations rest :),
    (congrArg State.starts rest :), (congrArg State.pending rest :), (congrArg State.units rest :), ?_, ?_, ?_, fun i => ?_,
    fun i hi => ?_, ?_, fun b => ⟨?_, fun h => ?_⟩, fun b hb => ?_, fun b hb => ?_, ?_,
    ⟨fun l => ?_, fun b => ?_⟩, fun f => ?_, ?_, ?_, ?_⟩
  · exact (congrArg State.curtailment restarted.rest :).trans cleared.curtailment
  · exact (congrArg State.ratioCount restarted.rest :).trans cleared.ratio
  · exact (congrArg State.highList restarted.rest :).trans cleared.high
  · exact (congrArg State.normalList restarted.rest :).trans cleared.normal
  · refine ⟨record i, fun r hr => ?_⟩
    obtain ⟨outcome, mark, generation⟩ := cleared.retired i r hr
    rw [slot i]
    exact ⟨outcome, mark, congrArg Fin.val generation⟩
  · rw [slot i]
    exact cleared.vacant i hi
  · rw [finRange_slots]
    exact (congrArg State.freeSlots restarted.rest :).trans cleared.free
  · rw [restarted.bay b]
    exact (congrArg (fun y : Bay => { y with starved := false }) (cleared.bay b) :)
  · obtain ⟨-, -, -, bound, kept⟩ := bay b
    rw [bound, kept]
    exact cleared.bound b h
  · obtain ⟨state, reason, aspect, -⟩ := bay b
    obtain ⟨y, hy⟩ := cleared.inService b hb
    rw [state, reason, aspect, hy]
    refine ⟨rfl, fun e => ?_, fun e => ?_⟩
    · have now : ((({ s with staged := [] } : State).setSequence none).bay b).occupancy = .empty := e
      rw [now]
      exact ⟨rfl, rfl⟩
    · have now : ((({ s with staged := [] } : State).setSequence none).bay b).occupancy = .occupied := e
      rw [now]
      exact ⟨rfl, rfl⟩
  · obtain ⟨state, reason, aspect, -⟩ := bay b
    rw [state, reason, aspect]
    exact cleared.outside b hb
  · have last : t.deadlines = u.deadlines := (congrArg State.deadlines restarted.rest :)
    rw [last, cleared.deadlines, finRange_bays]
    have due (s : State) (b : BayNo) : s.resetDeadline b = ⟨.identifyEnd, .bay b,
        min (s.clock + (match s.plan with | some plan => plan.site.identifyTime | none => 0)) 0xFFFFFFFF⟩ := by
      unfold State.resetDeadline State.dueIn State.identifyTime satAdd
      cases s.plan <;> rfl
    exact List.map_congr_left fun b _ => due _ b
  · rw [restarted.lane l, finRange_bays]
    have lane : u.lane l = s.lane l := (congrArg (State.lane · l) cleared.rest :)
    have picked : (allBays.filter fun b => laneOf b == l && u.stops b) = allBays.filter fun b => laneOf b == l &&
        ((s.bay b).place.isSome && ((s.unit b).link == .active || (s.unit b).link == .silent)) :=
      List.filter_congr fun b _ => by rw [stops b, s.stops_eq b]
    have entries : u.stopEntry = fun b => ⟨b, some (s.zeroStopOf b), false, false⟩ := funext fun b => by
      rw [State.stopEntry, order b]
    rw [lane, picked, entries]
    rfl
  · rw [restarted.grant b, cleared.grant b, stops b, s.stops_eq b, order b]
    rfl
  · have limits (plan : Plan) (hplan : s.plan = some plan) : u.plan = some plan ∧ u.siteBudget = plan.site.limit := by
      have kept : u.plan = some plan := (congrArg State.plan cleared.rest :).trans hplan
      exact ⟨kept, by simp only [State.siteBudget, State.siteLimit, kept, cleared.curtailment, Option.map_some, Option.getD_some,
        Nat.sub_zero]⟩
    have feeder := restarted.feeder f
    have idle := State.charging_vacant cleared.record
    have want {plan : Plan} {p : FeederPlan} (hplan : u.plan = some plan) := State.wantOf_idle (f := f) (p := p) idle hplan
    rw [cleared.feeder f] at want
    rw [cleared.feeder f, ← finRange_slots] at feeder
    obtain ⟨pledge, stranded, monitor, wanted⟩ := feeder
    refine ⟨pledge, fun e => ?_, stranded, monitor, fun plan p hplan hp => ⟨?_, ?_⟩⟩
    · exact pledge.trans (Nat.sub_eq_zero_of_le (Nat.le_of_eq e))
    · exact restarted.effective.trans (limits plan hplan).2
    · obtain ⟨kept, budget⟩ := limits plan hplan
      rw [wanted, want kept hp, budget] <;> rfl
  · exact restarted.notices.1.trans cleared.notices.1
  · exact restarted.notices.2.1.trans cleared.notices.2
  · rw [restarted.notices.2.2, cleared.notices.2, marked]
    rfl

end

section
/-! SUPPORT. A feeder's sessions in grant order, and how they share its session budget (R123, R127, R128). -/

-- One proof after another: side by side, the package as one text takes a thread and its stack for each.
set_option Elab.async false

namespace Sys2Proof.Machine

variable {s : State} {b : BayNo} {f : FeederNo} {x y z : Session} {xs ys zs : List Session}

/-! ### The grant order (R127) -/

/-- The order of two sessions of one priority. -/
def Session.Precedes (x y : Session) : Prop := x.number < y.number ∨ x.number = y.number ∧ x.ordinal ≤ y.ordinal

theorem Session.before_iff (x y : Session) : x.before y = true ↔ x.Precedes y := by
  simp [Session.before, Session.Precedes]

theorem Session.Precedes.trans (h : x.Precedes y) (k : y.Precedes z) : x.Precedes z := by
  unfold Session.Precedes at *
  omega

theorem Session.precedes_of_not_before (h : ¬x.before y = true) : y.Precedes x := by
  rw [Session.before_iff] at h
  unfold Session.Precedes at *
  omega

theorem placeSession_perm (x : Session) (xs : List Session) : (placeSession x xs).Perm (x :: xs) := by
  induction xs with
  | nil => exact .refl _
  | cons y ys ih =>
    unfold placeSession
    split
    · exact .refl _
    · exact (ih.cons y).trans (.swap x y ys)

theorem placeSession_sorted (x : Session) (sorted : xs.Pairwise Session.Precedes) : (placeSession x xs).Pairwise Session.Precedes := by
  induction xs with
  | nil => exact List.pairwise_singleton _ _
  | cons y ys ih =>
    obtain ⟨first, sorted'⟩ := List.pairwise_cons.1 sorted
    unfold placeSession
    split
    · next before =>
      have here := (x.before_iff y).1 before
      exact List.pairwise_cons.2 ⟨List.forall_mem_cons.2 ⟨here, fun z hz => here.trans (first z hz)⟩, sorted⟩
    · next after =>
      refine List.pairwise_cons.2 ⟨fun z hz => ?_, ih sorted'⟩
      rcases List.mem_cons.1 ((placeSession_perm x ys).mem_iff.1 hz) with e | hz
      · rw [e]
        exact Session.precedes_of_not_before after
      · exact first z hz

theorem sortSessions_perm (xs : List Session) : (sortSessions xs).Perm xs := by
  induction xs with
  | nil => exact .refl _
  | cons x xs ih => exact (placeSession_perm x _).trans (ih.cons x)

theorem sortSessions_sorted (xs : List Session) : (sortSessions xs).Pairwise Session.Precedes := by
  induction xs with
  | nil => exact .nil
  | cons x xs ih => exact placeSession_sorted x ih

/-- The running sessions of a feeder, by bay. -/
def State.runningOn (s : State) (f : FeederNo) : List Session := (allBays.filter (s.onFeeder f)).filterMap s.sessionOf

theorem State.sessionsOn_perm (s : State) (f : FeederNo) : (s.sessionsOn f).Perm (s.runningOn f) :=
  ((sortSessions_perm _).append (sortSessions_perm _)).trans (List.filter_append_perm _ _)

theorem State.sessionOf_eq {plan : Plan} (hplan : s.plan = some plan) : s.sessionOf b = some x ↔
    ∃ p i r, (s.bay b).place = some p ∧ (s.bay b).bound = some i ∧ s.record i = some r ∧ r.state = .charging ∧
      x = { bay := b, pmin := p.pmin, cap := sessionCap p.pmin p.pmax r.cap (s.bay b).demand
            weight := plan.site.weight r.priority, high := r.priority == .high, number := r.session.getD 0
            ordinal := (s.grant b).startOrdinal } := by
  unfold State.sessionOf
  rw [hplan]
  cases hp : (s.bay b).place with
  | none => simp
  | some p =>
    cases hs : s.sessionAt b with
    | none =>
      have nobody (i : SlotNo) : ¬((s.bay b).bound = some i ∧ ∃ r, s.record i = some r ∧ r.state = .charging) := by
        rw [← State.sessionAt_eq_some, hs]
        simp
      simp only [Option.bind_none, reduceCtorEq, false_iff]
      rintro ⟨p, i, r, -, hb, hr, charging, -⟩
      exact nobody i ⟨hb, r, hr, charging⟩
    | some i =>
      obtain ⟨hb, r, hr, charging⟩ := State.sessionAt_eq_some.1 hs
      simp only [Option.bind_some, hr, Option.some.injEq]
      constructor
      · rintro rfl
        exact ⟨p, i, r, rfl, hb, hr, charging, rfl⟩
      · rintro ⟨p', i', r', rfl, hb', hr', -, rfl⟩
        rw [hb] at hb'
        cases hb'
        rw [hr] at hr'
        cases hr'
        rfl

theorem State.bay_of_sessionOf (h : s.sessionOf b = some x) : x.bay = b := by
  unfold State.sessionOf at h
  split at h
  · cases h
    rfl
  · cases h

theorem State.mem_sessionsOn : x ∈ s.sessionsOn f ↔ ∃ b, s.onFeeder f b = true ∧ s.sessionOf b = some x := by
  rw [(s.sessionsOn_perm f).mem_iff]
  simp [State.runningOn, mem_allBays]

theorem filterMap_bay_sublist (h : ∀ b x, s.sessionOf b = some x → x.bay = b) (l : List BayNo) :
    ((l.filterMap s.sessionOf).map (·.bay)).Sublist l := by
  induction l with
  | nil => exact .slnil
  | cons b l ih =>
    cases hb : s.sessionOf b with
    | none =>
      rw [List.filterMap_cons_none hb]
      exact ih.cons b
    | some x =>
      rw [List.filterMap_cons_some hb, List.map_cons, h b x hb]
      exact ih.cons_cons b

theorem State.nodup_sessionsOn (s : State) (f : FeederNo) : ((s.sessionsOn f).map (·.bay)).Nodup := by
  have distinct : ((s.runningOn f).map (·.bay)).Nodup :=
    ((filterMap_bay_sublist (fun _ _ h => State.bay_of_sessionOf h) _).trans List.filter_sublist).nodup nodup_allBays
  exact (((s.sessionsOn_perm f).map _).nodup_iff).2 distinct

theorem State.sessionsOn_sorted (s : State) (f : FeederNo) : (s.sessionsOn f).Pairwise fun x y =>
    x.high = true ∧ y.high = false ∨ x.high = y.high ∧ x.Precedes y := by
  have member (p : Session → Bool) {x : Session} (h : x ∈ sortSessions ((s.runningOn f).filter p)) : p x = true :=
    (List.mem_filter.1 ((sortSessions_perm _).mem_iff.1 h)).2
  have one (p : Session → Bool) (same : ∀ x y, p x = true → p y = true → x.high = y.high) :
      (sortSessions ((s.runningOn f).filter p)).Pairwise fun x y =>
        x.high = true ∧ y.high = false ∨ x.high = y.high ∧ x.Precedes y :=
    (sortSessions_sorted _).imp_of_mem fun hx hy h => .inr ⟨same _ _ (member p hx) (member p hy), h⟩
  refine List.pairwise_append.2 ⟨one _ fun x y hx hy => hx.trans hy.symm, one _ fun x y hx hy => ?_, fun x hx y hy => ?_⟩
  · simpa using (hx.trans hy.symm)
  · exact .inl ⟨member _ hx, by simpa using member _ hy⟩

/-- The cap of a session: the smallest of the demand cap and the demand that is present and above 0 (R123). -/
theorem sessionCap_eq (pmin pmax : Nat) (wish : Option Nat) (demand : Nat) :
    sessionCap pmin pmax wish demand =
      max pmin (min pmax (((wish.toList ++ [demand]).filter (0 < ·)).min?.getD pmax)) := by
  unfold sessionCap
  cases wish with
  | none => by_cases hd : demand = 0 <;> simp [hd, Nat.pos_iff_ne_zero]
  | some c =>
    by_cases hc : c = 0 <;> by_cases hd : demand = 0 <;> simp [hc, hd, Nat.pos_iff_ne_zero, List.min?_cons]

/-! ### The minimums (R127) -/

/-- One session's turn in the hand-out of the minimums. -/
def Session.minimum (p : Nat × List Session) (x : Session) : Nat × List Session :=
  if x.pmin ≤ p.1 then (p.1 - x.pmin, p.2 ++ [{ x with grant := x.pmin, served := true }])
  else (p.1, p.2 ++ [{ x with grant := 0, served := false }])

theorem foldl_minimum (xs : List Session) (left : Nat) (done : List Session) :
    xs.foldl Session.minimum (left, done) = ((grantMinimums left xs).2, done ++ (grantMinimums left xs).1) := by
  induction xs generalizing left done with
  | nil => simp [grantMinimums]
  | cons x xs ih =>
    rw [List.foldl_cons]
    by_cases fits : x.pmin ≤ left
    · simp [Session.minimum, grantMinimums, fits, ih]
    · simp [Session.minimum, grantMinimums, fits, ih]

/-- A session as the minimums leave it. -/
def Session.Begins (x y : Session) : Prop :=
  y = { x with grant := if y.served then x.pmin else 0, served := y.served }

theorem grantMinimums_begins (left : Nat) (xs : List Session) : List.Forall₂ Session.Begins xs (grantMinimums left xs).1 := by
  induction xs generalizing left with
  | nil => exact .nil
  | cons x xs ih =>
    by_cases fits : x.pmin ≤ left
    · simp only [grantMinimums, fits, if_true]
      exact .cons rfl (ih _)
    · simp only [grantMinimums, fits, if_false]
      exact .cons rfl (ih _)

theorem grantMinimums_sum (left : Nat) (xs : List Session) :
    (grantMinimums left xs).2 + ((grantMinimums left xs).1.map (·.grant)).sum = left := by
  induction xs generalizing left with
  | nil => simp [grantMinimums]
  | cons x xs ih =>
    by_cases fits : x.pmin ≤ left
    · have := ih (left - x.pmin)
      simp only [grantMinimums, fits, if_true, List.map_cons, List.sum_cons]
      omega
    · have := ih left
      simp only [grantMinimums, fits, if_false, List.map_cons, List.sum_cons]
      omega

/-- A session is served where its pmin still fits behind the minimums served before it. -/
theorem grantMinimums_served (left : Nat) (xs : List Session) (k : Nat) (x y : Session) (hx : xs[k]? = some x)
    (hy : (grantMinimums left xs).1[k]? = some y) :
    y.served = true ↔ x.pmin + ((((grantMinimums left xs).1.take k).filter (·.served)).map (·.pmin)).sum ≤ left := by
  induction xs generalizing left k with
  | nil => simp at hx
  | cons a xs ih =>
    by_cases fits : a.pmin ≤ left
    · simp only [grantMinimums, fits, if_true] at hy ⊢
      cases k with
      | zero =>
        simp only [List.getElem?_cons_zero, Option.some.injEq] at hx hy
        subst hx hy
        simpa using fits
      | succ k =>
        simp only [List.getElem?_cons_succ] at hx hy
        rw [ih (left - a.pmin) k hx hy]
        simp only [List.take_succ_cons, List.filter_cons, if_true, List.map_cons, List.sum_cons]
        omega
    · simp only [grantMinimums, fits, if_false] at hy ⊢
      cases k with
      | zero =>
        simp only [List.getElem?_cons_zero, Option.some.injEq] at hx hy
        subst hx hy
        simpa using fits
      | succ k =>
        simp only [List.getElem?_cons_succ] at hx hy
        rw [ih left k hx hy]
        simp

/-! ### What a pass or a round may do (R128) -/

/-- A session's grant has grown, no further than its cap, and not at all where it is not served. -/
def Session.Grows (x y : Session) : Prop :=
  y = { x with grant := y.grant } ∧ x.grant ≤ y.grant ∧ (x.grant ≤ x.cap → y.grant ≤ x.cap) ∧
    (x.served = false → y.grant = x.grant)

theorem Session.Grows.refl (x : Session) : x.Grows x := ⟨rfl, Nat.le_refl _, id, fun _ => rfl⟩

theorem Session.Grows.cap (h : x.Grows y) : y.cap = x.cap := by rw [h.1]
theorem Session.Grows.pmin (h : x.Grows y) : y.pmin = x.pmin := by rw [h.1]
theorem Session.Grows.served (h : x.Grows y) : y.served = x.served := by rw [h.1]
theorem Session.Grows.bay (h : x.Grows y) : y.bay = x.bay := by rw [h.1]

theorem Session.Grows.trans (h : x.Grows y) (k : y.Grows z) : x.Grows z := by
  have kept_cap := h.cap
  have kept_served := h.served
  obtain ⟨first, up, within, unserved⟩ := h
  obtain ⟨same, up', within', unserved'⟩ := k
  refine ⟨?_, up.trans up', fun c => ?_, fun n => ?_⟩
  · rw [first] at same
    exact same
  · rw [← kept_cap]
    exact within' (by rw [kept_cap]; exact within c)
  · rw [unserved' (kept_served.trans n), unserved n]

/-- What is left and the grants so far: a step hands out of what is left. -/
structure Shares (p q : Nat × List Session) : Prop where
  sum : q.1 + (q.2.map (·.grant)).sum = p.1 + (p.2.map (·.grant)).sum
  grows : List.Forall₂ Session.Grows p.2 q.2

theorem Shares.refl (p : Nat × List Session) : Shares p p :=
  ⟨rfl, List.forall₂_same.2 fun x _ => .refl x⟩

theorem forall₂_grows_trans (h : List.Forall₂ Session.Grows xs ys) (k : List.Forall₂ Session.Grows ys zs) :
    List.Forall₂ Session.Grows xs zs := by
  induction h generalizing zs with
  | nil =>
    cases k
    exact .nil
  | cons first _ ih =>
    cases k with
    | cons first' rest' => exact .cons (first.trans first') (ih rest')

theorem Shares.trans {p q r : Nat × List Session} (h : Shares p q) (k : Shares q r) : Shares p r :=
  ⟨k.sum.trans h.sum, forall₂_grows_trans h.grows k.grows⟩

/-- A step repeated. -/
theorem Shares.iterate {f : Nat × List Session → Nat × List Session} (step : ∀ p, Shares p (f p)) (n : Nat)
    (p : Nat × List Session) : Shares p (f^[n] p) := by
  induction n generalizing p with
  | zero => exact .refl p
  | succ n ih => exact (step p).trans (ih (f p))

/-! ### The weighted passes -/

/-- What a session takes in a weighted pass. -/
def Session.taking (left weights : Nat) (y : Session) : Nat := min (y.share left weights) y.headroom

/-- A weighted pass. -/
def weightedPass (p : Nat × List Session) : Nat × List Session :=
  (p.1 - (p.2.map (Session.taking p.1 (openWeight p.2))).sum,
    p.2.map fun y => { y with grant := y.grant + y.taking p.1 (openWeight p.2) })

theorem Session.isOpen_iff (y : Session) : y.isOpen = true ↔ y.served = true ∧ y.grant < y.cap := by
  simp [Session.isOpen, Session.headroom]

theorem Session.taking_le (left weights : Nat) (y : Session) : y.grant ≤ y.cap → y.grant + y.taking left weights ≤ y.cap := by
  intro below
  have : y.taking left weights ≤ y.cap - y.grant := Nat.min_le_right _ _
  omega

theorem Session.taking_closed {left weights : Nat} {y : Session} (closed : y.isOpen = false) : y.taking left weights = 0 := by
  simp [Session.taking, Session.share, closed]

theorem Session.taking_grows (left weights : Nat) (y : Session) :
    y.Grows { y with grant := y.grant + y.taking left weights } := by
  refine ⟨rfl, Nat.le_add_right _ _, y.taking_le left weights, fun unserved => ?_⟩
  have closed : y.isOpen = false := by simp [Session.isOpen, unserved]
  simp [Session.taking_closed closed]

/-- The shares of a pass fit in what is left. -/
theorem sum_taking_le (left : Nat) (ys : List Session) : (ys.map (Session.taking left (openWeight ys))).sum ≤ left := by
  have parts (weights : Nat) (zs : List Session) :
      (zs.map (Session.taking left weights)).sum * weights ≤ left * openWeight zs := by
    induction zs with
    | nil => simp [openWeight]
    | cons z zs ih =>
      have one : z.taking left weights * weights ≤ left * (if z.isOpen then z.weight else 0) := by
        by_cases here : z.isOpen = true
        · have share : z.share left weights * weights ≤ left * z.weight := by
            simp only [Session.share, here, if_true]
            exact Nat.div_mul_le_self _ _
          rw [if_pos here]
          exact (Nat.mul_le_mul_right _ (Nat.min_le_left _ _)).trans share
        · rw [Session.taking_closed (by simpa using here)]
          simp
      have whole : openWeight (z :: zs) = (if z.isOpen then z.weight else 0) + openWeight zs := by
        simp only [openWeight, List.filter_cons]
        split <;> simp
      rw [List.map_cons, List.sum_cons, Nat.add_mul, whole, Nat.mul_add]
      exact Nat.add_le_add one ih
  have fits := parts (openWeight ys) ys
  rcases Nat.eq_zero_or_pos (openWeight ys) with none_ | some_
  · have nothing : ∀ n ∈ ys.map (Session.taking left (openWeight ys)), n = 0 := by
      intro n hn
      obtain ⟨y, -, rfl⟩ := List.mem_map.1 hn
      simp [Session.taking, Session.share, none_]
    rw [List.sum_eq_zero nothing]
    exact Nat.zero_le _
  · exact Nat.le_of_mul_le_mul_right fits some_

theorem weightedPass_shares (p : Nat × List Session) : Shares p (weightedPass p) := by
  obtain ⟨left, ys⟩ := p
  have fits := sum_taking_le left ys
  have grown : ((ys.map fun y => ({ y with grant := y.grant + y.taking left (openWeight ys) } : Session)).map (·.grant)).sum =
      (ys.map (·.grant)).sum + (ys.map (Session.taking left (openWeight ys))).sum := by
    rw [List.map_map, ← List.sum_map_add]
    rfl
  refine ⟨?_, ?_⟩
  · simp only [weightedPass]
    rw [grown]
    omega
  · exact List.forall₂_map_right_iff.2 (List.forall₂_same.2 fun y _ => y.taking_grows _ _)

/-- A pass in which every share is 0 changes nothing. -/
theorem weightedPass_fixed {left : Nat} (none_ : (ys.all fun x => x.share left (openWeight ys) == 0) = true) :
    weightedPass (left, ys) = (left, ys) := by
  have taking (y : Session) (hy : y ∈ ys) : y.taking left (openWeight ys) = 0 := by
    have := List.all_eq_true.1 none_ y hy
    simp [Session.taking, eq_of_beq this]
  have nothing : (ys.map (Session.taking left (openWeight ys))).sum = 0 :=
    List.sum_eq_zero fun n hn => by
      obtain ⟨y, hy, rfl⟩ := List.mem_map.1 hn
      exact taking y hy
  have kept : (ys.map fun y => ({ y with grant := y.grant + y.taking left (openWeight ys) } : Session)) = ys := by
    refine (List.map_congr_left fun y hy => ?_).trans (List.map_id ys)
    rw [taking y hy]
    rfl
  simp only [weightedPass, nothing, kept, Nat.sub_zero]

/-- Any other pass hands something out. -/
theorem weightedPass_lt {left : Nat} (some_ : ¬(ys.all fun x => x.share left (openWeight ys) == 0) = true) :
    (weightedPass (left, ys)).1 < left := by
  obtain ⟨y, hy, share⟩ : ∃ y ∈ ys, y.share left (openWeight ys) ≠ 0 := by simpa using some_
  have here : y.isOpen = true := by
    by_contra closed
    exact share (by simp [Session.share, closed])
  have room : 0 < y.headroom := by
    have := (y.isOpen_iff).1 here
    simp only [Session.headroom]
    omega
  have taken : 0 < y.taking left (openWeight ys) := Nat.lt_min.2 ⟨Nat.pos_of_ne_zero share, room⟩
  have part : y.taking left (openWeight ys) ≤ (ys.map (Session.taking left (openWeight ys))).sum :=
    List.single_le_sum (fun _ _ => Nat.zero_le _) _ (List.mem_map_of_mem hy)
  have fits := sum_taking_le left ys
  simp only [weightedPass]
  omega

/-! ### The unit rounds -/

/-- One session's turn in a unit round. -/
def Session.unit (p : Nat × List Session) (y : Session) : Nat × List Session :=
  if 0 < p.1 ∧ y.isOpen then (p.1 - 1, p.2 ++ [{ y with grant := y.grant + 1 }]) else (p.1, p.2 ++ [y])

/-- A unit round. -/
def unitPass (p : Nat × List Session) : Nat × List Session := p.2.foldl Session.unit (p.1, [])

theorem foldl_unit (ys : List Session) (left : Nat) (done : List Session) :
    ys.foldl Session.unit (left, done) = ((unitRound left ys).2, done ++ (unitRound left ys).1) := by
  induction ys generalizing left done with
  | nil => simp [unitRound]
  | cons y ys ih =>
    rw [List.foldl_cons]
    by_cases given : 0 < left ∧ y.isOpen = true
    · simp [Session.unit, unitRound, given, ih]
    · simp [Session.unit, unitRound, given, ih]

theorem unitPass_eq (left : Nat) (ys : List Session) : unitPass (left, ys) = ((unitRound left ys).2, (unitRound left ys).1) :=
  foldl_unit ys left []

theorem unitPass_shares (p : Nat × List Session) : Shares p (unitPass p) := by
  obtain ⟨left, ys⟩ := p
  rw [unitPass_eq]
  induction ys generalizing left with
  | nil => exact .refl _
  | cons y ys ih =>
    by_cases given : 0 < left ∧ y.isOpen = true
    · obtain ⟨sum, grows⟩ := ih (left - 1)
      obtain ⟨served, below⟩ := (y.isOpen_iff).1 given.2
      have one : y.Grows { y with grant := y.grant + 1 } :=
        ⟨rfl, Nat.le_succ _, fun _ => below, fun unserved => by rw [served] at unserved; cases unserved⟩
      simp only [unitRound, given, and_self, if_true]
      refine ⟨?_, .cons one grows⟩
      simp only [List.map_cons, List.sum_cons] at sum ⊢
      omega
    · obtain ⟨sum, grows⟩ := ih left
      simp only [unitRound, given, if_false]
      refine ⟨?_, .cons (.refl y) grows⟩
      simp only [List.map_cons, List.sum_cons] at sum ⊢
      omega

theorem unitRound_fixed {left : Nat} (done : ¬(0 < left ∧ (ys.any (·.isOpen)) = true)) : unitRound left ys = (ys, left) := by
  induction ys with
  | nil => rfl
  | cons y ys ih =>
    have here : ¬(0 < left ∧ y.isOpen = true) := fun h => done ⟨h.1, by simp [h.2]⟩
    have there := ih fun h => done ⟨h.1, by simp [h.2]⟩
    simp [unitRound, here, there]

theorem unitRound_lt {left : Nat} (more : 0 < left) (some_ : ys.any (·.isOpen) = true) : (unitRound left ys).2 < left := by
  have le (ys : List Session) (left : Nat) : (unitRound left ys).2 ≤ left := by
    induction ys generalizing left with
    | nil => exact Nat.le_refl _
    | cons y ys ih =>
      by_cases given : 0 < left ∧ y.isOpen = true
      · simp only [unitRound, given, and_self, if_true]
        exact (ih (left - 1)).trans (Nat.sub_le _ _)
      · simp only [unitRound, given, if_false]
        exact ih left
  induction ys with
  | nil => simp at some_
  | cons y ys ih =>
    by_cases given : 0 < left ∧ y.isOpen = true
    · simp only [unitRound, given, and_self, if_true]
      have := le ys (left - 1)
      omega
    · have closed : ¬y.isOpen = true := fun h => given ⟨more, h⟩
      simp only [unitRound, given, if_false]
      exact ih (by simpa [closed] using some_)

/-! ### Passes and rounds repeated -/

theorem unitRounds_eq (fuel left : Nat) (ys : List Session) (n : Nat) (enough : left ≤ fuel) (many : left ≤ n) :
    unitRounds fuel left ys = (unitPass^[n] (left, ys)).2 := by
  induction fuel generalizing left ys n with
  | zero =>
    have none_ : left = 0 := by omega
    have fixed : unitPass (left, ys) = (left, ys) := by rw [unitPass_eq, unitRound_fixed (by omega)]
    rw [Function.iterate_fixed fixed]
    rfl
  | succ fuel ih =>
    unfold unitRounds
    split
    · next more =>
      obtain ⟨m, rfl⟩ : ∃ m, n = m + 1 := ⟨n - 1, by omega⟩
      have less := unitRound_lt more.1 more.2
      rw [Function.iterate_succ_apply, unitPass_eq]
      exact ih _ _ m (by omega) (by omega)
    · next done =>
      have fixed : unitPass (left, ys) = (left, ys) := by rw [unitPass_eq, unitRound_fixed done]
      rw [Function.iterate_fixed fixed]

theorem extras_eq (fuel left : Nat) (ys : List Session) (n m : Nat) (enough : left < fuel) (many : left ≤ n) (later : left ≤ m) :
    extras fuel left ys = (unitPass^[m] (weightedPass^[n] (left, ys))).2 := by
  induction fuel generalizing left ys n with
  | zero => omega
  | succ fuel ih =>
    unfold extras
    dsimp only
    split
    · next none_ =>
      rw [Function.iterate_fixed (weightedPass_fixed none_), unitRounds_eq left left ys m (Nat.le_refl _) later]
    · next some_ =>
      have less : left - (ys.map fun x => min (x.share left (openWeight ys)) x.headroom).sum < left := weightedPass_lt some_
      obtain ⟨k, rfl⟩ : ∃ k, n = k + 1 := ⟨n - 1, by omega⟩
      rw [Function.iterate_succ_apply]
      exact ih _ _ k (by omega) (by omega) (by omega)

/-- A feeder's sessions from its session budget (R127, R128). -/
theorem shareSessions_eq (budget : Nat) (xs : List Session) :
    shareSessions budget xs = (unitPass^[budget] (weightedPass^[budget] (xs.foldl Session.minimum (budget, [])))).2 := by
  have sum := grantMinimums_sum budget xs
  rw [foldl_minimum]
  exact extras_eq _ _ _ budget budget (by omega) (by omega) (by omega)

/-- The passes and rounds end with nothing left or no session open. -/
theorem unitPass_iterate_done (n left : Nat) (ys : List Session) (many : left ≤ n) :
    ¬(0 < (unitPass^[n] (left, ys)).1 ∧ (unitPass^[n] (left, ys)).2.any (·.isOpen) = true) := by
  induction n generalizing left ys with
  | zero =>
    have none_ : left = 0 := by omega
    simp [none_]
  | succ n ih =>
    rw [Function.iterate_succ_apply]
    by_cases more : 0 < left ∧ ys.any (·.isOpen) = true
    · have less := unitRound_lt more.1 more.2
      rw [unitPass_eq]
      exact ih _ _ (by omega)
    · have fixed : unitPass (left, ys) = (left, ys) := by rw [unitPass_eq, unitRound_fixed more]
      rw [fixed, Function.iterate_fixed fixed]
      exact more

/-! ### What the sharing gives (R127, R128) -/

theorem forall₂_at {α β : Type} {R : α → β → Prop} {as : List α} {bs : List β} (h : List.Forall₂ R as bs) (k : Nat)
    {a : α} {b : β} (ha : as[k]? = some a) (hb : bs[k]? = some b) : R a b := by
  induction h generalizing k with
  | nil => simp at ha
  | cons first _ ih =>
    cases k with
    | zero =>
      simp only [List.getElem?_cons_zero, Option.some.injEq] at ha hb
      rw [← ha, ← hb]
      exact first
    | succ k =>
      simp only [List.getElem?_cons_succ] at ha hb
      exact ih k ha hb

theorem map_eq_of_forall₂ {α β γ : Type} {R : α → β → Prop} {as : List α} {bs : List β} {p : α → γ} {q : β → γ}
    (same : ∀ a b, R a b → q b = p a) (h : List.Forall₂ R as bs) : bs.map q = as.map p := by
  induction h with
  | nil => rfl
  | cons first _ ih => rw [List.map_cons, List.map_cons, same _ _ first, ih]

/-- What the sharing gives a session. -/
structure Session.Gets (x y : Session) : Prop where
  same : y = { x with grant := y.grant, served := y.served }
  least : y.served = true → x.pmin ≤ y.grant
  most : x.pmin ≤ x.cap → y.served = true → y.grant ≤ x.cap
  unserved : y.served = false → y.grant = 0

theorem Session.Begins.gets (h : x.Begins y) (k : y.Grows z) : x.Gets z := by
  have cap : y.cap = x.cap := by rw [h]
  have grant : y.grant = if y.served then x.pmin else 0 := by rw [h]
  have served := k.served
  obtain ⟨same, up, within, unserved⟩ := k
  refine ⟨?_, fun e => ?_, fun fits e => ?_, fun e => ?_⟩
  · rw [h] at same
    rw [same]
  · rw [served] at e
    rw [grant, if_pos e] at up
    exact up
  · rw [served] at e
    rw [grant, if_pos e, cap] at within
    exact within fits
  · rw [served] at e
    rw [unserved e, grant, e]
    rfl

/-- The minimums, then steps that share what is left until it is gone or no session is open. -/
theorem shareSessions_shares (budget : Nat) (xs : List Session) : ∃ left,
    Shares ((grantMinimums budget xs).2, (grantMinimums budget xs).1) (left, shareSessions budget xs) ∧
      ¬(0 < left ∧ (shareSessions budget xs).any (·.isOpen) = true) := by
  have sum := grantMinimums_sum budget xs
  have passes := Shares.iterate weightedPass_shares budget ((grantMinimums budget xs).2, (grantMinimums budget xs).1)
  rw [shareSessions_eq, foldl_minimum, List.nil_append]
  generalize weightedPass^[budget] ((grantMinimums budget xs).2, (grantMinimums budget xs).1) = p at passes
  have left := passes.sum
  simp only at left
  exact ⟨_, passes.trans (.iterate unitPass_shares budget p), unitPass_iterate_done budget p.1 p.2 (by omega)⟩

theorem shareSessions_gets (budget : Nat) (xs : List Session) : List.Forall₂ Session.Gets xs (shareSessions budget xs) := by
  obtain ⟨left, ⟨-, grows⟩, -⟩ := shareSessions_shares budget xs
  have begins := grantMinimums_begins budget xs
  simp only at grows
  generalize (grantMinimums budget xs).1 = ys at begins grows
  generalize shareSessions budget xs = zs at grows
  induction begins generalizing zs with
  | nil =>
    cases grows
    exact .nil
  | cons first _ ih =>
    cases grows with
    | cons first' rest' => exact .cons (first.gets first') (ih _ rest')

theorem shareSessions_bays (budget : Nat) (xs : List Session) : (shareSessions budget xs).map (·.bay) = xs.map (·.bay) :=
  map_eq_of_forall₂ (fun _ _ h => by rw [h.same]) (shareSessions_gets budget xs)

theorem shareSessions_sum (budget : Nat) (xs : List Session) : ((shareSessions budget xs).map (·.grant)).sum ≤ budget := by
  obtain ⟨left, ⟨sum, -⟩, -⟩ := shareSessions_shares budget xs
  have := grantMinimums_sum budget xs
  simp only at sum
  omega

/-- The budget is given out, or no served session could take more. -/
theorem shareSessions_spent (budget : Nat) (xs : List Session) : ((shareSessions budget xs).map (·.grant)).sum = budget ∨
    ∀ y ∈ shareSessions budget xs, y.served = true → y.cap ≤ y.grant := by
  obtain ⟨left, ⟨sum, -⟩, done⟩ := shareSessions_shares budget xs
  have start := grantMinimums_sum budget xs
  simp only at sum
  rcases Nat.eq_zero_or_pos left with none_ | more
  · left
    omega
  · refine .inr fun y hy served => Nat.not_lt.1 fun below => done ⟨more, ?_⟩
    exact List.any_eq_true.2 ⟨y, hy, (y.isOpen_iff).2 ⟨served, below⟩⟩

theorem shareSessions_served (budget : Nat) (xs : List Session) (k : Nat) (x z : Session) (hx : xs[k]? = some x)
    (hz : (shareSessions budget xs)[k]? = some z) : z.served = true ↔
      x.pmin + ((((shareSessions budget xs).take k).filter (·.served)).map (·.pmin)).sum ≤ budget := by
  obtain ⟨left, ⟨-, grows⟩, -⟩ := shareSessions_shares budget xs
  simp only at grows
  have length := grows.length_eq
  obtain ⟨y, hy⟩ : ∃ y, (grantMinimums budget xs).1[k]? = some y := by
    have : k < (shareSessions budget xs).length := (List.getElem?_eq_some_iff.1 hz).1
    exact ⟨_, List.getElem?_eq_getElem (by omega)⟩
  have keys := map_eq_of_forall₂ (p := fun y : Session => (y.served, y.pmin)) (q := fun y : Session => (y.served, y.pmin))
    (fun _ _ h => by rw [h.served, h.pmin]) grows
  have minimums (ys : List Session) : (((ys.take k).filter (·.served)).map (·.pmin)) =
      ((((ys.map fun y => (y.served, y.pmin)).take k).filter (·.1)).map (·.2)) := by
    rw [← List.map_take, List.filter_map, List.map_map]
    rfl
  rw [(forall₂_at grows k hy hz).served, grantMinimums_served budget xs k x y hx hy, minimums, minimums (shareSessions budget xs), keys]

end Sys2Proof.Machine

open Sys2Proof Sys2Proof.Machine

/-- Settles O45: the grant order sorts the running sessions; the sharing is the minimums, the passes and the rounds, each of which grows
grants within their caps out of what is left. -/
theorem sessionsShareTheirFeedersBudget : Obligations.SessionsShareTheirFeedersBudget := by
  unfold Obligations.SessionsShareTheirFeedersBudget
  refine ⟨?_, ?_⟩
  · intro s f plan hplan cap weight
    have weighs (y : Priority) : plan.site.weight y = weight y := by cases y <;> rfl
    have highs (y : Priority) : (y == .high) = decide (y = .high) := by cases y <;> rfl
    have caps (p : BayPlan) (wish : Option Nat) (demand : Nat) : sessionCap p.pmin p.pmax wish demand = cap p wish demand :=
      sessionCap_eq _ _ _ _
    refine ⟨fun x => ?_, s.nodup_sessionsOn f, s.sessionsOn_sorted f⟩
    rw [State.mem_sessionsOn]
    constructor
    · rintro ⟨b, on, h⟩
      obtain ⟨p, i, r, place, bound, record, charging, rfl⟩ := (State.sessionOf_eq hplan).1 h
      obtain ⟨p', place', feeder⟩ := (State.onFeeder_iff f b).1 on
      rw [place] at place'
      cases place'
      refine ⟨b, p, i, r, place, feeder, bound, record, charging, ?_⟩
      rw [caps, weighs, highs]
      cases r.session <;> rfl
    · rintro ⟨b, p, i, r, place, feeder, bound, record, charging, rfl⟩
      refine ⟨b, (State.onFeeder_iff f b).2 ⟨p, place, feeder⟩, (State.sessionOf_eq hplan).2
        ⟨p, i, r, place, bound, record, charging, ?_⟩⟩
      rw [caps, weighs, highs]
      cases r.session <;> rfl
  · intro budget xs isOpen minimum pass unit round ys
    have opens (y : Session) : y.isOpen = isOpen y := by
      rw [Bool.eq_iff_iff, y.isOpen_iff]
      simp [isOpen]
    have opens' : Session.isOpen = isOpen := funext opens
    have passes : weightedPass = pass := by
      funext ⟨left, ys⟩
      have taking (weights : Nat) (y : Session) : y.taking left weights =
          if isOpen y then min (left * y.weight / weights) (y.cap - y.grant) else 0 := by
        rw [← opens y]
        unfold Session.taking Session.share
        split
        · rfl
        · exact Nat.zero_min _
      simp only [weightedPass, openWeight, opens', funext (taking _)]
      rfl
    have rounds : unitPass = round := by
      have turn : Session.unit = unit := by
        funext ⟨left, ys⟩ y
        simp only [Session.unit, opens y]
        rfl
      funext p
      simp only [unitPass, turn]
      rfl
    refine ⟨?_, fun fits => ⟨shareSessions_bays budget xs, shareSessions_sum budget xs, ?_, fun k x y hx hy => ?_⟩⟩
    · rw [← passes, ← rounds]
      exact shareSessions_eq budget xs
    · refine (shareSessions_spent budget xs).imp_right fun full y hy served => ?_
      obtain ⟨k, hk⟩ := List.getElem?_of_mem hy
      obtain ⟨x, hx⟩ : ∃ x, xs[k]? = some x := by
        have inside : k < (shareSessions budget xs).length := (List.getElem?_eq_some_iff.1 hk).1
        have length := (shareSessions_gets budget xs).length_eq
        exact ⟨_, List.getElem?_eq_getElem (by omega)⟩
      have gets := forall₂_at (shareSessions_gets budget xs) k hx hk
      have cap : y.cap = x.cap := by rw [gets.same]
      have most := gets.most (fits x (List.mem_of_getElem? hx)) served
      exact Nat.le_antisymm (cap ▸ most) (full y hy served)
    · have gets := forall₂_at (shareSessions_gets budget xs) k hx hy
      have cap : y.cap = x.cap := by rw [gets.same]
      have pmin : y.pmin = x.pmin := by rw [gets.same]
      exact ⟨cap, pmin, shareSessions_served budget xs k x y hx hy,
        fun served => ⟨gets.least served, gets.most (fits x (List.mem_of_getElem? hx)) served⟩, gets.unserved⟩

end

section
/-! SUPPORT. What an allocation run writes (R122 to R129): the feeders' budgets, and the targets session by session. -/

-- One proof after another: side by side, the package as one text takes a thread and its stack for each.
set_option Elab.async false

namespace Sys2Proof.Machine

variable {s t u : State} {b : BayNo} {f : FeederNo} {plan : Plan} {p : FeederPlan}

/-! ### The targets session by session (R129) -/

/-- `u` with the bays and grants of `v`. -/
def State.withTargets (u v : State) : State := { u with bays := v.bays, grants := v.grants }

theorem State.bump_withTargets (u v : State) (c : Counter) : (u.bump c).withTargets v = (u.withTargets v).bump c := by
  rw [State.bump_eq_of (t := u.withTargets v) (u := u) rfl rfl, State.bump_eq_of (t := u) (u := u) rfl rfl]
  rfl

/-- Whether the writing of a session's target counts it as starved. -/
def State.starves (u : State) (z : Session) : Bool := z.grant == 0 && !(u.bay z.bay).starved

theorem State.writeTarget_eq (u : State) (z : Session) :
    (∀ b, (u.writeTarget z).grant b = if b = z.bay then { u.grant b with target := z.grant } else u.grant b) ∧
      (∀ b, (u.writeTarget z).bay b = if b = z.bay then { u.bay b with starved := z.grant == 0 } else u.bay b) ∧
      ∀ v, (u.writeTarget z).withTargets v = if u.starves z then (u.withTargets v).bump .sessionsStarved else u.withTargets v := by
  unfold State.writeTarget State.starves
  by_cases zero : z.grant = 0
  · simp only [zero, if_true, Bool.true_and, beq_self_eq_true]
    refine ⟨fun b => ?_, fun b => ?_, fun v => ?_⟩
    · rw [← u.grant_modGrant z.bay b fun g => { g with target := 0 }]
      split
      · rfl
      · exact State.grant_bump _ _ _
    · rw [← u.bay_modBay z.bay b fun y => { y with starved := true }]
      split
      · rfl
      · exact State.bay_bump _ _ _
    · cases (u.bay z.bay).starved with
      | true => rfl
      | false => exact State.bump_withTargets _ v _
  · have flag : (z.grant == 0) = false := by simpa using zero
    simp only [zero, if_false, flag, Bool.false_and, Bool.false_eq_true]
    refine ⟨fun b => ?_, fun b => ?_, fun v => rfl⟩
    · rw [State.grant_modBay, State.grant_modGrant]
    · exact State.bay_modBay _ _ _ _

/-- The targets of a list of sessions written, no two of one bay. -/
structure State.Wrote (u v : State) (l : List Session) : Prop where
  target : ∀ z ∈ l, (v.grant z.bay).target = z.grant ∧ (v.bay z.bay).starved = (z.grant == 0)
  elsewhere : ∀ b, b ∉ l.map (·.bay) → v.grant b = u.grant b ∧ v.bay b = u.bay b
  counted : v = (State.bump · .sessionsStarved)^[l.countP u.starves] (u.withTargets v)

theorem State.wrote_foldl (l : List Session) (distinct : (l.map (·.bay)).Nodup) (u : State) :
    u.Wrote (l.foldl State.writeTarget u) l := by
  induction l generalizing u with
  | nil => exact ⟨fun _ h => by simp at h, fun _ _ => ⟨rfl, rfl⟩, rfl⟩
  | cons z l ih =>
    obtain ⟨fresh, distinct⟩ := List.nodup_cons.1 distinct
    obtain ⟨grant, bay, kept⟩ := u.writeTarget_eq z
    obtain ⟨target, elsewhere, counted⟩ := ih distinct (u.writeTarget z)
    rw [List.foldl_cons]
    generalize l.foldl State.writeTarget (u.writeTarget z) = v at target elsewhere counted
    refine ⟨fun y hy => ?_, fun b hb => ?_, ?_⟩
    · rcases List.mem_cons.1 hy with rfl | hy
      · obtain ⟨g, x⟩ := elsewhere y.bay fresh
        rw [g, x, grant, bay, if_pos rfl, if_pos rfl]
        exact ⟨rfl, rfl⟩
      · exact target y hy
    · rw [List.map_cons, List.mem_cons, not_or] at hb
      obtain ⟨g, x⟩ := elsewhere b hb.2
      rw [g, x, grant, bay, if_neg hb.1, if_neg hb.1]
      exact ⟨rfl, rfl⟩
    · have same : l.countP (u.writeTarget z).starves = l.countP u.starves := List.countP_congr fun y hy => by
        have other : y.bay ≠ z.bay := fun e => fresh (List.mem_map.2 ⟨y, hy, e⟩)
        simp only [State.starves, bay y.bay, if_neg other]
      rw [same, kept v] at counted
      rw [List.countP_cons]
      cases hz : u.starves z with
      | true =>
        rw [hz, if_pos rfl, ← Function.iterate_succ_apply (State.bump · .sessionsStarved)] at counted
        simpa using counted
      | false =>
        rw [hz, if_neg Bool.false_ne_true] at counted
        simpa using counted

/-- The sessions of all feeders with the grants a run gives them. -/
def State.shares (x : State) : List Session :=
  allFeeders.flatMap fun f => shareSessions (x.feeder f).sessionBudget (x.sessionsOn f)

theorem State.bays_shares (x : State) : x.shares.map (·.bay) = allFeeders.flatMap fun f => (x.sessionsOn f).map (·.bay) := by
  unfold State.shares
  rw [List.map_flatMap]
  simp only [shareSessions_bays]

theorem State.mem_bays_sessionsOn {x : State} (h : b ∈ (x.sessionsOn f).map (·.bay)) :
    x.onFeeder f b = true ∧ x.charging b = true := by
  obtain ⟨z, hz, rfl⟩ := List.mem_map.1 h
  obtain ⟨b, on, session⟩ := State.mem_sessionsOn.1 hz
  rw [State.bay_of_sessionOf session]
  refine ⟨on, ?_⟩
  unfold State.sessionOf at session
  unfold State.charging
  cases hs : x.sessionAt b with
  | some i => rfl
  | none =>
    rw [hs] at session
    cases hp : x.plan <;> cases hb : (x.bay b).place <;> simp [hp, hb] at session

theorem State.nodup_bays_shares (x : State) : (x.shares.map (·.bay)).Nodup := by
  rw [x.bays_shares]
  refine List.nodup_flatMap.2 ⟨fun f _ => x.nodup_sessionsOn f, nodup_allFeeders.imp fun {f g} differ => ?_⟩
  intro b hf hg
  obtain ⟨p, place, rfl⟩ := (State.onFeeder_iff f b).1 (State.mem_bays_sessionsOn hf).1
  obtain ⟨q, place', rfl⟩ := (State.onFeeder_iff g b).1 (State.mem_bays_sessionsOn hg).1
  rw [place] at place'
  cases place'
  exact differ rfl

/-- The bays with no session cleared. -/
def State.idleCleared (x : State) : State := (allBays.filter fun b => !x.charging b).foldl State.clearTarget x

theorem State.charging_clearTarget (t : State) (b : BayNo) : (t.clearTarget b).charging = t.charging := by
  funext y
  have bound : ((t.clearTarget b).bay y).bound = (t.bay y).bound := by
    unfold State.clearTarget
    rw [State.bay_modBay]
    split <;> rfl
  have record (i : SlotNo) : (t.clearTarget b).record i = t.record i := rfl
  simp only [State.charging, State.sessionAt, bound, record]

theorem State.writeTargets_eq (x : State) : x.writeTargets = x.shares.foldl State.writeTarget x.idleCleared := by
  have cleared : allBays.foldl (fun u b => if u.charging b then u else u.clearTarget b) x = x.idleCleared := by
    have turned : (fun (u : State) b => if u.charging b then u else u.clearTarget b) =
        fun u b => if !u.charging b then u.clearTarget b else u := by
      funext u b
      cases u.charging b <;> rfl
    rw [turned]
    exact foldl_if_eq_foldl_filter (fun t => t.charging = x.charging) (fun t b => !t.charging b) (fun b => !x.charging b)
      State.clearTarget (fun t b h => by rw [h]) (fun t b h => (t.charging_clearTarget b).trans h) allBays rfl
  unfold State.writeTargets State.shares
  dsimp only
  rw [cleared, List.foldl_flatMap]

/-- What the writing of the targets leaves. -/
structure State.TargetsWritten (x y : State) : Prop where
  target : ∀ f, ∀ z ∈ shareSessions (x.feeder f).sessionBudget (x.sessionsOn f),
    (y.grant z.bay).target = z.grant ∧ (y.bay z.bay).starved = (z.grant == 0)
  idle : ∀ b, x.charging b = false → (y.grant b).target = 0 ∧ (y.bay b).starved = false
  counted : y = (State.bump · .sessionsStarved)^[(allBays.filter fun b => (y.bay b).starved && !(x.bay b).starved).length]
    (x.withTargets y)

theorem State.targetsWritten (x : State) : x.TargetsWritten x.writeTargets := by
  obtain ⟨rest, bay, grant⟩ := State.clearTargets_foldl (allBays.filter fun b => !x.charging b) (nodup_allBays.filter _) x
  obtain ⟨target, elsewhere, counted⟩ := State.wrote_foldl x.shares x.nodup_bays_shares x.idleCleared
  rw [← x.writeTargets_eq] at target elsewhere counted
  have idle (b : BayNo) : (b ∈ allBays.filter fun b => !x.charging b) ↔ x.charging b = false := by simp [mem_allBays]
  have charging {b : BayNo} (h : b ∈ x.shares.map (·.bay)) : x.charging b = true := by
    rw [x.bays_shares] at h
    obtain ⟨f, -, h⟩ := List.mem_flatMap.1 h
    exact (State.mem_bays_sessionsOn h).2
  have bay_cleared (b : BayNo) : x.idleCleared.bay b = if x.charging b then x.bay b else { x.bay b with starved := false } := by
    refine (bay b).trans ?_
    by_cases h : x.charging b = true
    · rw [if_pos h, if_neg fun hb => by rw [idle, h] at hb; cases hb]
    · rw [if_neg h, if_pos ((idle b).2 (by simpa using h))]
  generalize x.writeTargets = y at target elsewhere counted
  have number : x.shares.countP x.idleCleared.starves =
      (allBays.filter fun b => (y.bay b).starved && !(x.bay b).starved).length := by
    have reads : x.shares.countP x.idleCleared.starves =
        x.shares.countP fun z => (y.bay z.bay).starved && !(x.bay z.bay).starved := List.countP_congr fun z hz => by
      rw [State.starves, bay_cleared, if_pos (charging (List.mem_map_of_mem hz)), (target z hz).2]
    have same : ((x.shares.map (·.bay)).filter fun b => (y.bay b).starved && !(x.bay b).starved).Perm
        (allBays.filter fun b => (y.bay b).starved && !(x.bay b).starved) := by
      refine (List.perm_ext_iff_of_nodup (x.nodup_bays_shares.filter _) (nodup_allBays.filter _)).2 fun b => ?_
      rw [List.mem_filter, List.mem_filter]
      refine ⟨fun h => ⟨mem_allBays b, h.2⟩, fun h => ⟨?_, h.2⟩⟩
      by_contra out
      have starved := h.2
      rw [(elsewhere b out).2, bay_cleared b] at starved
      split at starved <;> simp at starved
    rw [reads, ← same.length_eq, List.countP_eq_length_filter, List.filter_map, List.length_map]
    rfl
  refine ⟨fun f z hz => target z (List.mem_flatMap.2 ⟨f, mem_allFeeders f, hz⟩), fun b hb => ?_, ?_⟩
  · have out : b ∉ x.shares.map (·.bay) := fun h => by rw [charging h] at hb; cases hb
    obtain ⟨g, y⟩ := elsewhere b out
    have grant_b := (grant b).trans (if_pos ((idle b).2 hb))
    have bay_b := (bay b).trans (if_pos ((idle b).2 hb))
    rw [g, y]
    unfold State.idleCleared
    rw [grant_b, bay_b]
    exact ⟨rfl, rfl⟩
  · have start : x.idleCleared.withTargets y = x.withTargets y :=
      (congrArg (State.withTargets · y) rest :)
    rw [← number, ← start]
    exact counted

/-! ### The budgets (R123 to R126) -/

theorem State.sessionsOn_writeBudgets (s : State) (f : FeederNo) : s.writeBudgets.sessionsOn f = s.sessionsOn f := by
  have any (e : Nat) (x : Vector Feeder 16) : ({ s with effective := e, feeders := x } : State).sessionsOn f = s.sessionsOn f := rfl
  rw [State.writeBudgets_eq]
  exact any _ _

theorem State.charging_writeBudgets (s : State) : s.writeBudgets.charging = s.charging := by
  have any (e : Nat) (x : Vector Feeder 16) : ({ s with effective := e, feeders := x } : State).charging = s.charging := rfl
  rw [State.writeBudgets_eq]
  exact any _ _

theorem State.feeder_writeBudgets (hplan : s.plan = some plan) (f : FeederNo) : s.writeBudgets.feeder f =
    let budget := (shareBudget plan.site.mode s.siteBudget (allFeeders.map s.wantOf)).getD f.val 0
    let trimmed := if (s.feederPlan f).isSome then trimBudget budget (s.feeder f).trimStep else 0
    { s.feeder f with
      want := s.wantOf f, budget := budget, trimmedBudget := trimmed, sessionBudget := trimmed - (s.feeder f).stranded } := by
  have read (e : Nat) (g : FeederNo → Feeder) : ({ s with effective := e, feeders := Vector.ofFn g } : State).feeder f = g f :=
    Vector.getElem_ofFn f.isLt
  rw [State.writeBudgets_eq, read, hplan]

theorem getD_shareBudget_le (mode : SharingMode) (e : Nat) (wants : List Nat) (k : Nat) :
    (shareBudget mode e wants).getD k 0 ≤ wants.getD k 0 := by
  obtain ⟨quota, fits, short⟩ := budgetsShareTheSiteExactly e wants
  cases mode with
  | quota => rw [quota]
  | pooled =>
    rcases Nat.lt_or_ge e wants.sum with less | enough
    · obtain ⟨-, length, entry⟩ := short less
      cases hw : wants[k]? with
      | none =>
        have outside : (shareBudget .pooled e wants)[k]? = none := by
          rw [List.getElem?_eq_none_iff] at hw ⊢
          omega
        simp [List.getD_eq_getElem?_getD, outside]
      | some w =>
        obtain ⟨budget, hb, le, -⟩ := entry k w hw
        simpa [List.getD_eq_getElem?_getD, hw, hb] using le
    · rw [fits enough]

theorem getD_map_allFeeders (g : FeederNo → Nat) (f : FeederNo) : (allFeeders.map g).getD f.val 0 = g f := by
  rw [← finRange_feeders]
  simp [List.getD_eq_getElem?_getD]

theorem trimBudget_le (budget step : Nat) : trimBudget budget step ≤ budget := by
  have : budget * (256 - 32 * step) ≤ budget * 256 := Nat.mul_le_mul_left _ (Nat.sub_le _ _)
  unfold trimBudget
  omega

theorem State.wantOf_undefined (undefined_ : s.feederPlan f = none) : s.wantOf f = 0 := by
  unfold State.wantOf
  rw [undefined_]
  cases s.plan <;> rfl

/-! ### The targets of a feeder -/

theorem State.sessionOf_isSome {x : State} (hplan : x.plan = some plan) (on : x.onFeeder f b = true) (charging : x.charging b = true) :
    ∃ z ∈ x.sessionsOn f, x.sessionOf b = some z ∧ z.bay = b := by
  obtain ⟨q, place, -⟩ := (State.onFeeder_iff f b).1 on
  obtain ⟨i, hi⟩ := Option.isSome_iff_exists.1 charging
  obtain ⟨bound, r, record, state⟩ := State.sessionAt_eq_some.1 hi
  obtain ⟨z, hz⟩ : ∃ z, x.sessionOf b = some z :=
    ⟨_, (State.sessionOf_eq hplan).2 ⟨q, i, r, place, bound, record, state, rfl⟩⟩
  exact ⟨z, State.mem_sessionsOn.2 ⟨b, on, hz⟩, hz, State.bay_of_sessionOf hz⟩

/-- The targets of a feeder's bays sum to no more than its session budget. -/
theorem State.TargetsWritten.sum_le {x y : State} (h : x.TargetsWritten y) (hplan : x.plan = some plan) (f : FeederNo) :
    ((allBays.filter (x.onFeeder f)).map fun b => (y.grant b).target).sum ≤ (x.feeder f).sessionBudget := by
  have shares := shareSessions_sum (x.feeder f).sessionBudget (x.sessionsOn f)
  have served : (shareSessions (x.feeder f).sessionBudget (x.sessionsOn f)).map (fun z => (y.grant z.bay).target) =
      (shareSessions (x.feeder f).sessionBudget (x.sessionsOn f)).map (·.grant) :=
    List.map_congr_left fun z hz => (h.target f z hz).1
  have running : ((allBays.filter (x.onFeeder f)).filter x.charging).Perm ((x.sessionsOn f).map (·.bay)) := by
    refine (List.perm_ext_iff_of_nodup ((nodup_allBays.filter _).filter _) (x.nodup_sessionsOn f)).2 fun b => ?_
    rw [List.mem_filter, List.mem_filter]
    refine ⟨fun h => ?_, fun hb => ?_⟩
    · obtain ⟨⟨-, on⟩, charging⟩ := h
      obtain ⟨z, hz, -, rfl⟩ := State.sessionOf_isSome hplan on charging
      exact List.mem_map_of_mem hz
    · obtain ⟨on, charging⟩ := State.mem_bays_sessionsOn hb
      exact ⟨⟨mem_allBays b, on⟩, charging⟩
  have idle : (((allBays.filter (x.onFeeder f)).filter fun b => !x.charging b).map fun b => (y.grant b).target).sum = 0 :=
    List.sum_eq_zero fun n hn => by
      obtain ⟨b, hb, rfl⟩ := List.mem_map.1 hn
      exact (h.idle b (by simpa using (List.mem_filter.1 hb).2)).1
  have split := ((List.filter_append_perm x.charging (allBays.filter (x.onFeeder f))).map fun b => (y.grant b).target).sum_eq
  rw [List.map_append, List.sum_append, idle, (running.map _).sum_eq, ← shareSessions_bays (x.feeder f).sessionBudget,
    List.map_map] at split
  rw [← split]
  refine Nat.le_trans (Nat.le_of_eq ?_) shares
  rw [← served]
  rfl

/-- The target and the flag of a running session. -/
theorem State.TargetsWritten.session {x y : State} (h : x.TargetsWritten y) (hplan : x.plan = some plan) {q : BayPlan} {i : SlotNo}
    {r : Reservation} (place : (x.bay b).place = some q) (bound : (x.bay b).bound = some i) (record : x.record i = some r)
    (charging : r.state = .charging) :
    ((y.grant b).target = 0 ∨
      q.pmin ≤ (y.grant b).target ∧ (y.grant b).target ≤ sessionCap q.pmin q.pmax r.cap (x.bay b).demand) ∧
      (y.bay b).starved = decide ((y.grant b).target = 0) := by
  have session := (State.sessionOf_eq hplan).2 ⟨q, i, r, place, bound, record, charging, rfl⟩
  have on := (State.onFeeder_iff q.feeder b).2 ⟨q, place, rfl⟩
  have member := State.mem_sessionsOn.2 ⟨b, on, session⟩
  obtain ⟨k, hk⟩ := List.getElem?_of_mem member
  have gets := shareSessions_gets (x.feeder q.feeder).sessionBudget (x.sessionsOn q.feeder)
  obtain ⟨z, hz⟩ : ∃ z, (shareSessions (x.feeder q.feeder).sessionBudget (x.sessionsOn q.feeder))[k]? = some z := by
    have inside := (List.getElem?_eq_some_iff.1 hk).1
    have length := gets.length_eq
    exact ⟨_, List.getElem?_eq_getElem (by omega)⟩
  have given := forall₂_at gets k hk hz
  have here : z.bay = b := by rw [given.same]
  obtain ⟨target, starved⟩ := h.target q.feeder z (List.mem_of_getElem? hz)
  rw [here] at target starved
  rw [target, starved]
  refine ⟨?_, by rw [Bool.eq_iff_iff]; simp⟩
  cases hs : z.served with
  | true => exact .inr ⟨given.least hs, given.most (Nat.le_max_left _ _) hs⟩
  | false => exact .inl (given.unserved hs)

end Sys2Proof.Machine

open Sys2Proof Sys2Proof.Machine

/-- Settles O46: the run in its three parts, the budgets by feeder, the targets by session, the settlement off both. -/
theorem anAllocationRunStaysWithinItsBudgets : Obligations.AnAllocationRunStaysWithinItsBudgets := by
  unfold Obligations.AnAllocationRunStaysWithinItsBudgets
  intro s f p plan hplan hp
  have off := s.offRun_allocationRun
  have effective := s.effective_allocationRun
  have written := s.writeBudgets.targetsWritten
  have orders := State.Orders.settleTargets s.writeBudgets.writeTargets
  have targets := State.Targets.writeTargets s.writeBudgets
  have budgets := State.Budgets.writeBudgets s
  have feeder := State.feeder_writeBudgets hplan
  have sessions := s.sessionsOn_writeBudgets
  have charging := s.charging_writeBudgets
  have last : s.allocationRun = s.writeBudgets.writeTargets.settleTargets := rfl
  rw [← last] at orders
  obtain ⟨x, hx⟩ : ∃ x, x = s.writeBudgets := ⟨_, rfl⟩
  obtain ⟨y, hy⟩ : ∃ y, y = x.writeTargets := ⟨_, rfl⟩
  obtain ⟨t, ht⟩ : ∃ t, t = s.allocationRun := ⟨_, rfl⟩
  rw [← hx] at written orders targets budgets feeder sessions charging last
  rw [← hy] at written orders targets last
  rw [← ht] at off effective orders last ⊢
  clear hx hy ht
  dsimp only
  have feeder_t (g : FeederNo) : t.feeder g = x.feeder g := by simp only [State.feeder, orders.feeders, targets.feeders]
  have plan_x : x.plan = some plan := (congrArg State.plan budgets.rest :).trans hplan
  have defined_ : s.feederPlan f = some p := by simp only [State.feederPlan, hplan, Option.bind_some, hp]
  have limit : s.siteBudget = plan.site.limit - s.curtailment := by
    simp only [State.siteBudget, State.siteLimit, hplan, Option.map_some, Option.getD_some]
  have wants : (List.finRange 16).map (fun g => (t.feeder g).want) = allFeeders.map s.wantOf := by
    rw [finRange_feeders]
    exact List.map_congr_left fun g _ => by rw [feeder_t g, feeder g]
  have target (b : BayNo) : (t.grant b).target = (y.grant b).target := (orders.grants b).1
  have bay (b : BayNo) : t.bay b = y.bay b := by simp only [State.bay, orders.bays]
  refine ⟨effective.trans limit, ?_, ?_, ?_, ?_, ?_, ?_, ?_, ?_, ?_, ?_, ?_, ?_, ?_, ?_, ?_, ?_⟩
  · rw [feeder_t f, feeder f, wants, effective]
  · intro g hg
    have undefined_ : s.feederPlan g = none := by simp only [State.feederPlan, hplan, Option.bind_some, hg]
    have want := State.wantOf_undefined undefined_
    have none_ : (shareBudget plan.site.mode s.siteBudget (allFeeders.map s.wantOf)).getD g.val 0 = 0 := by
      have le := getD_shareBudget_le plan.site.mode s.siteBudget (allFeeders.map s.wantOf) g.val
      rw [getD_map_allFeeders, want] at le
      exact Nat.le_zero.1 le
    rw [feeder_t g, feeder g]
    dsimp only
    rw [none_, want, undefined_]
    exact ⟨rfl, rfl, rfl, Nat.zero_sub _⟩
  · rw [feeder_t f, feeder f]
    simp only [State.wantOf, hplan, defined_, limit]
    cases plan.site.mode <;> rfl
  · rw [feeder_t f, feeder f]
    simp only [defined_, Option.isSome_some, if_true]
    rfl
  · rw [feeder_t f, feeder f]
  · exact (off.feeder f).2.1
  · exact congrArg (fun m : Option Monitor => (m.map (·.step)).getD 0) (off.feeder f).2.2
  · rw [feeder_t f, feeder f]
    simp only [defined_, Option.isSome_some, if_true]
    exact trimBudget_le _ _
  · rw [feeder_t f, feeder f]
    have le := getD_shareBudget_le plan.site.mode s.siteBudget (allFeeders.map s.wantOf) f.val
    rw [getD_map_allFeeders] at le
    refine le.trans ?_
    simp only [State.wantOf, hplan, defined_]
    cases plan.site.mode with
    | pooled => exact Nat.min_le_left _ _
    | quota => exact (Nat.min_le_left _ _).trans (Nat.min_le_left _ _)
  · intro z hz
    rw [target, feeder_t f, ← sessions f] at *
    exact (written.target f z hz).1
  · rw [feeder_t f, finRange_bays, ← State.onFeeder_congr budgets.bays f]
    simp only [target]
    exact written.sum_le plan_x f
  · intro b q place feeder_q
    have bay_x : x.bay b = s.bay b := by simp only [State.bay, budgets.bays]
    have record_x (i : SlotNo) : x.record i = s.record i := (congrArg (State.record · i) budgets.rest :)
    rw [target b, bay b]
    refine ⟨fun i r bound record state => ?_, fun idle => written.idle b (by rw [charging]; exact idle)⟩
    rw [← bay_x] at place bound ⊢
    exact written.session plan_x place bound ((record_x i).trans record) state
  · exact off.feeder
  · intro b
    obtain ⟨acknowledged, stranded, zeroAcked, -⟩ := off.grant b
    exact ⟨off.bay b, acknowledged, stranded, zeroAcked⟩
  · exact off.rest
  · have bay_x (b : BayNo) : x.bay b = s.bay b := by simp only [State.bay, budgets.bays]
    have start : x.withTargets y = { s with
        effective := t.effective, feeders := t.feeders, bays := t.bays
        grants := Vector.ofFn fun b => { s.grant b with target := (t.grant b).target } } := by
      have whole := (congrArg (fun u : State => { u with
        feeders := x.feeders, effective := x.effective, bays := y.bays, grants := y.grants }) budgets.rest :)
      have grants : y.grants = Vector.ofFn fun b => { s.grant b with target := (t.grant b).target } := by
        apply Vector.ext
        intro k hk
        have one := targets.grant ⟨k, hk⟩
        have same : x.grant ⟨k, hk⟩ = s.grant ⟨k, hk⟩ := by simp only [State.grant, budgets.grants]
        rw [Vector.getElem_ofFn, ← same, ← one, target]
        rfl
      rw [orders.feeders, orders.effective, orders.bays, targets.feeders, targets.effective, ← grants]
      exact whole
    have counted := written.counted
    rw [start] at counted
    refine last.trans ?_
    rw [finRange_bays, List.foldl_const]
    simp only [bay_x, ← bay] at counted
    exact congrArg State.settleTargets counted

end

section
/-! SUPPORT. Frames of the bay link: the CRC bit by bit, the judgement of a reply by its bytes, and the decoding of a REPORT (R156,
R157, R195). -/

-- One proof after another: side by side, the package as one text takes a thread and its stack for each.
set_option Elab.async false

namespace Sys2Proof.Machine

/-! ### The CRC (R157) -/

/-- One bit taken into the CRC register. -/
def crcShift (r : BitVec 16) (bit : Bool) : BitVec 16 := (r <<< 1) ^^^ (if r.msb = bit then 0 else 0x1021)

/-- The register takes the first of the bits laid over it, and keeps the others laid over it. -/
theorem crcBit_xor (r v : BitVec 16) : crcBit (r ^^^ v) = crcShift r v.msb ^^^ v <<< 1 := by
  unfold crcBit crcShift
  rw [BitVec.msb_xor, BitVec.shiftLeft_xor_distrib]
  cases r.msb <;> cases v.msb <;> simp <;> ac_rfl

theorem msb_overlaid (x : Byte) (k : Nat) (h : k < 8) : (x.setWidth 16 <<< (8 + k)).msb = x.getLsbD (7 - k) := by
  rw [BitVec.msb_eq_getLsbD_last, BitVec.getLsbD_shiftLeft, BitVec.getLsbD_setWidth]
  have place : 16 - 1 - (8 + k) = 7 - k := by omega
  have above : ¬16 - 1 < 8 + k := by omega
  simp [place, above]
  omega

theorem crcBit_overlaid (r : BitVec 16) (x : Byte) (k : Nat) (h : k < 8) :
    crcBit (r ^^^ x.setWidth 16 <<< (8 + k)) = crcShift r (x.getLsbD (7 - k)) ^^^ x.setWidth 16 <<< (8 + (k + 1)) := by
  rw [crcBit_xor, msb_overlaid x k h, ← BitVec.shiftLeft_add, Nat.add_assoc]

theorem crcByte_eq (r : BitVec 16) (x : Byte) :
    crcByte r x = ((List.range 8).map fun k => x.getLsbD (7 - k)).foldl crcShift r := by
  have gone : x.setWidth 16 <<< (8 + 8) = 0#16 := BitVec.shiftLeft_eq_zero (by decide)
  have start : crcByte r x = crcBit (crcBit (crcBit (crcBit (crcBit (crcBit (crcBit (crcBit
      (r ^^^ (x.setWidth 16 <<< (8 + 0))))))))))  := rfl
  rw [start, crcBit_overlaid _ x 0 (by decide), crcBit_overlaid _ x 1 (by decide), crcBit_overlaid _ x 2 (by decide),
    crcBit_overlaid _ x 3 (by decide), crcBit_overlaid _ x 4 (by decide), crcBit_overlaid _ x 5 (by decide),
    crcBit_overlaid _ x 6 (by decide), crcBit_overlaid _ x 7 (by decide), gone, BitVec.xor_zero]
  rfl

theorem crc16_eq (bytes : List Byte) :
    crc16 bytes = (bytes.flatMap fun x => (List.range 8).map fun k => x.getLsbD (7 - k)).foldl crcShift 0xFFFF := by
  unfold crc16
  rw [List.foldl_flatMap]
  congr 1
  funext r x
  exact crcByte_eq r x

/-! ### The judgement of a reply (R156) -/

/-- Bytes at a place of a frame, one by one. -/
theorem take_drop_getD (bytes : List Byte) (k m : Nat) (h : k + m ≤ bytes.length) :
    (bytes.drop k).take m = (List.range m).map fun i => bytes.getD (k + i) 0 := by
  refine List.ext_getElem? fun i => ?_
  by_cases hi : i < m
  · have inside : k + i < bytes.length := by omega
    simp [hi, inside]
  · simp [hi]

/-- A CRC in two bytes, high byte first. -/
theorem bytes_eq_iff (hi lo : Byte) (crc : BitVec 16) :
    [hi, lo] = [BitVec.ofNat 8 (crc.toNat / 256), BitVec.ofNat 8 crc.toNat] ↔ hi.toNat * 256 + lo.toNat = crc.toNat := by
  have := crc.isLt
  have := hi.isLt
  have := lo.isLt
  rw [List.cons_eq_cons, List.cons_eq_cons, ← BitVec.toNat_inj, ← BitVec.toNat_inj, BitVec.toNat_ofNat, BitVec.toNat_ofNat]
  simp only [and_true]
  omega

theorem crcMatches_iff {frame : List Byte} {n : Nat} (h : frame.length = n + 2) : crcMatches frame = true ↔
    (frame.getD n 0).toNat * 256 + (frame.getD (n + 1) 0).toNat = (crc16 (frame.take n)).toNat := by
  have last : frame.drop n = [frame.getD n 0, frame.getD (n + 1) 0] := by
    have := take_drop_getD frame n 2 (by omega)
    rw [List.take_of_length_le (by simp [h])] at this
    exact this
  rw [← bytes_eq_iff]
  unfold crcMatches
  rw [show frame.length - 2 = n by omega]
  dsimp only
  rw [last, beq_iff_eq]

theorem head?_eq_getD {bytes : List Byte} (h : 0 < bytes.length) : bytes.head? = some (bytes.getD 0 0) := by
  cases bytes with
  | nil => simp at h
  | cons b bytes => rfl

theorem second_eq_getD {bytes : List Byte} (h : 1 < bytes.length) : (bytes.drop 1).head? = some (bytes.getD 1 0) := by
  cases bytes with
  | nil => simp at h
  | cons b bytes =>
    cases bytes with
    | nil => simp at h
    | cons c bytes => rfl

/-- Whether the received bytes hold a whole reply with its CRC. -/
def Exchange.Whole (x : Exchange) (received : List Byte) : Prop :=
  let frame := received.take x.replyLength
  let at_ (k : Nat) : Byte := frame.getD k 0
  x.replyLength ≤ received.length ∧ (at_ (x.replyLength - 2)).toNat * 256 + (at_ (x.replyLength - 1)).toNat =
    (crc16 (frame.take (x.replyLength - 2))).toNat

theorem Exchange.two_le_replyLength (x : Exchange) : 5 < x.replyLength := by
  unfold Exchange.replyLength
  split <;> decide

theorem Exchange.whole_iff (x : Exchange) (received : List Byte) : x.Whole received ↔
    ¬((received.take x.replyLength).length < x.replyLength ∨ crcMatches (received.take x.replyLength) = false) := by
  have long := x.two_le_replyLength
  rw [not_or, Bool.not_eq_false, Nat.not_lt, List.length_take]
  constructor
  · rintro ⟨length, crc⟩
    have exact_ : (received.take x.replyLength).length = x.replyLength - 2 + 2 := by rw [List.length_take]; omega
    refine ⟨by omega, (crcMatches_iff exact_).2 ?_⟩
    rw [show x.replyLength - 2 + 1 = x.replyLength - 1 by omega]
    exact crc
  · rintro ⟨length, crc⟩
    have exact_ : (received.take x.replyLength).length = x.replyLength - 2 + 2 := by rw [List.length_take]; omega
    refine ⟨by omega, ?_⟩
    have carried := (crcMatches_iff exact_).1 crc
    rw [show x.replyLength - 2 + 1 = x.replyLength - 1 by omega] at carried
    exact carried

theorem judgeReply_short {x : Exchange} {received : List Byte} (some_ : received ≠ []) (broken : ¬x.Whole received) :
    judgeReply x received = some .crc := by
  unfold judgeReply
  dsimp only
  rw [if_neg some_, if_pos (by rw [x.whole_iff, not_not] at broken; exact broken)]

/-- A whole reply is judged by its address, its kind and its echo. -/
theorem judgeReply_whole {x : Exchange} {received : List Byte} (whole : x.Whole received) :
    let frame := received.take x.replyLength
    judgeReply x received =
      if (frame.getD 0 0).toNat ≠ x.bay.val % 128 then some .address
      else if frame.getD 1 0 ≠ x.replyKind then some .kind
      else if x.echoes frame = false then some .echo
      else none := by
  have long := x.two_le_replyLength
  have some_ : received ≠ [] := by
    rintro rfl
    have := whole.1
    simp only [List.length_nil] at this
    omega
  intro frame
  have length : frame.length = x.replyLength := by
    have := whole.1
    simp only [frame, List.length_take]
    omega
  have address : frame.head? ≠ some (BitVec.ofNat 8 (addrOf x.bay).val) ↔ (frame.getD 0 0).toNat ≠ x.bay.val % 128 := by
    rw [head?_eq_getD (by omega), Ne, Ne, Option.some.injEq, ← BitVec.toNat_inj, BitVec.toNat_ofNat,
      Nat.mod_eq_of_lt (Nat.lt_trans (addrOf x.bay).isLt (by decide))]
    rfl
  have kind : (frame.drop 1).head? ≠ some x.replyKind ↔ frame.getD 1 0 ≠ x.replyKind := by
    rw [second_eq_getD (by omega), Ne, Ne, Option.some.injEq]
  unfold judgeReply
  dsimp only
  rw [if_neg some_, if_neg ((x.whole_iff received).1 whole)]
  simp only [← address, ← kind]
  rfl

/-! ### A REPORT decoded (R195) -/

/-- A field by its bytes. -/
theorem fieldAt_eq_foldr (bytes : List Byte) (k m : Nat) :
    fieldAt bytes k m = (List.range m).foldr (fun i v => (bytes.getD (k + i) 0).toNat + 256 * v) 0 := by
  induction m generalizing k with
  | zero => simp [fieldAt, unle]
  | succ m ih =>
    have first : fieldAt bytes k (m + 1) = (bytes.getD k 0).toNat + 256 * fieldAt bytes (k + 1) m := by
      unfold fieldAt
      rcases Nat.lt_or_ge k bytes.length with inside | outside
      · rw [List.drop_eq_getElem_cons inside, List.take_succ_cons, unle]
        simp [List.getD_eq_getElem?_getD, inside]
      · have nothing : bytes.drop k = [] := List.drop_eq_nil_of_le outside
        have nothing' : bytes.drop (k + 1) = [] := List.drop_eq_nil_of_le (by omega)
        rw [nothing, nothing']
        simp [unle, outside]
    rw [first, ih, List.range_succ_eq_map, List.foldr_cons, List.foldr_map]
    simp [Nat.add_assoc, Nat.add_comm 1]

theorem fieldAt_lt (bytes : List Byte) (k m : Nat) : fieldAt bytes k m < 256 ^ m := by
  rw [fieldAt_eq_foldr]
  induction m generalizing k with
  | zero => simp
  | succ m ih =>
    have rest := ih (k + 1)
    have byte := (bytes.getD k 0).isLt
    rw [List.range_succ_eq_map, List.foldr_cons, List.foldr_map, pow_succ]
    simp only [Nat.add_zero, Nat.succ_eq_add_one]
    have shifted : (List.range m).foldr (fun i v => (bytes.getD (k + (i + 1)) 0).toNat + 256 * v) 0 < 256 ^ m := by
      simpa [Nat.add_assoc, Nat.add_comm 1] using rest
    omega

theorem occupancyOf_eq (n : Nat) :
    occupancyOf n = if n = 0 then .empty else if n = 1 then .occupied else .detectorFault := by
  rcases n with _ | _ | n <;> simp [occupancyOf]

theorem plugOf_eq (n : Nat) :
    plugOf n = if n = 0 then .unplugged else if n = 1 then .plugged else if n = 2 then .charging else .postFault := by
  rcases n with _ | _ | _ | n <;> simp [plugOf]

/-- The fields of a REPORT's payload. -/
theorem readReport_reportPayload {r : Report} (fault : r.fault < 256) (cred : r.cred ≠ some 0) (demand : r.demand < 65536)
    (metered : r.metered < 65536) (inForce : r.inForce < 65536) (aspect : r.aspect < 256) : readReport (reportPayload r) = r := by
  have payload : reportPayload r = le 1 r.fault ++ (le 1 r.occupancy.code ++ (le 1 (if r.cred.isSome then 1 else 0) ++
      (le 5 ((r.cred.map (·.toNat)).getD 0) ++ (le 1 r.plug.code ++ (le 1 (if r.stop then 1 else 0) ++ (le 2 r.demand ++
        (le 2 r.metered ++ (le 2 r.inForce ++ le 1 r.aspect)))))))) := by
    simp only [reportPayload, flagByte_eq_le, List.append_assoc]
  rw [payload]
  obtain ⟨fault', occupancy, cred', plug, stop, demand', metered', inForce', aspect'⟩ := r
  simp only [readReport, fieldAt_next, fieldAt_head, fieldAt_whole, Nat.reduceLeDiff, Nat.reduceSub, Report.mk.injEq]
  refine ⟨Nat.mod_eq_of_lt fault, by cases occupancy <;> rfl, ?_, by cases plug <;> rfl, by cases stop <;> rfl,
    Nat.mod_eq_of_lt demand, Nat.mod_eq_of_lt metered, Nat.mod_eq_of_lt inForce, Nat.mod_eq_of_lt aspect⟩
  cases cred' with
  | none => rfl
  | some c =>
    have whole : BitVec.ofNat 40 (c.toNat % 1099511627776) = c := ofNat_mod_toNat c 5 (by decide)
    have present : ¬c = 0#40 := fun e => cred (by rw [e] <;> rfl)
    simp [whole, present]

/-! ### Frames as they are sent (R157) -/

theorem drop_linkFrame (a : LaneAddr) (kind : Byte) (payload : List Byte) (n : Nat) (h : payload.length = n) :
    ((linkFrame a kind payload).drop 2).take n = payload := by
  unfold linkFrame
  dsimp only [List.cons_append, List.drop_succ_cons, List.drop_zero]
  exact take_append_of_length _ _ _ h

/-- A frame made of its parts is a whole reply. -/
theorem whole_linkFrame {x : Exchange} {payload : List Byte} (kind : Byte) (h : payload.length + 4 = x.replyLength) :
    x.Whole (linkFrame (addrOf x.bay) kind payload) ∧
      (linkFrame (addrOf x.bay) kind payload).take x.replyLength = linkFrame (addrOf x.bay) kind payload := by
  have length : (linkFrame (addrOf x.bay) kind payload).length = x.replyLength := by
    simp only [linkFrame, List.length_append, List.length_cons, List.length_nil]
    omega
  have whole := List.take_of_length_le (Nat.le_of_eq length)
  refine ⟨?_, whole⟩
  refine (x.whole_iff _).2 ?_
  rw [whole, length, not_or, Bool.not_eq_false]
  refine ⟨Nat.lt_irrefl _, ?_⟩
  unfold crcMatches linkFrame
  have head : (BitVec.ofNat 8 (addrOf x.bay).val :: kind :: payload).length = x.replyLength - 2 := by
    simp only [List.length_cons]
    omega
  dsimp only
  rw [List.length_append, head, take_append_of_length _ _ _ (by rw [head]; rfl), drop_append_of_length _ _ _ (by rw [head]; rfl)]
  exact beq_self_eq_true _

/-- A frame from the bay's unit of the expected kind and echo is good. -/
theorem judgeReply_linkFrame {x : Exchange} {payload : List Byte} (h : payload.length + 4 = x.replyLength)
    (echoes : x.echoes (linkFrame (addrOf x.bay) x.replyKind payload) = true) :
    judgeReply x (linkFrame (addrOf x.bay) x.replyKind payload) = none := by
  obtain ⟨whole, all⟩ := whole_linkFrame x.replyKind h
  have judged := judgeReply_whole whole
  dsimp only at judged
  rw [all] at judged
  have address : ((linkFrame (addrOf x.bay) x.replyKind payload).getD 0 0).toNat = x.bay.val % 128 := by
    simp only [linkFrame, List.cons_append, List.getD_cons_zero, BitVec.toNat_ofNat]
    exact Nat.mod_eq_of_lt (Nat.lt_trans (addrOf x.bay).isLt (by decide))
  have kind : (linkFrame (addrOf x.bay) x.replyKind payload).getD 1 0 = x.replyKind := by
    simp only [linkFrame, List.cons_append, List.getD_cons_succ, List.getD_cons_zero]
  rw [judged, if_neg (not_not.2 address), if_neg (not_not.2 kind), if_neg (by rw [echoes]; decide)]

theorem length_reportPayload (r : Report) : (reportPayload r).length = 17 := by
  simp [reportPayload]

end Sys2Proof.Machine

open Sys2Proof Sys2Proof.Machine

/-- Settles O51: the CRC register takes its bytes bit by bit; the checks in their order; a payload is its fields. -/
theorem replyFramesAreJudgedAndDecoded : Obligations.ReplyFramesAreJudgedAndDecoded := by
  unfold Obligations.ReplyFramesAreJudgedAndDecoded
  refine ⟨fun bytes => crc16_eq bytes, ?_, ?_, ?_⟩
  · intro x received n kind frame at_ crc whole addressed echoed
    have length : n = x.replyLength := by
      simp only [n, Exchange.replyLength]
      cases x.order <;> rfl
    have expected : x.replyKind = kind := by
      simp only [kind, Exchange.replyKind]
      cases x.order <;> rfl
    have whole_iff : whole ↔ x.Whole received := by
      simp only [whole, crc, at_, frame, length]
      exact Iff.rfl
    have judged (h : whole) : judgeReply x received = if ¬addressed then some .address else if at_ 1 ≠ kind then some .kind
        else if x.echoes frame = false then some .echo else none := by
      rw [judgeReply_whole (whole_iff.1 h), expected, ← length]
    have echoes_iff (h : whole) : x.echoes frame = true ↔ echoed := by
      have long : frame.length = n := by
        have := h.1
        simp only [frame, List.length_take]
        omega
      unfold Exchange.echoes
      cases ho : x.order with
      | none => simp [echoed, ho]
      | some o =>
        have seven : n = 7 := by simp [n, ho]
        have carried : (frame.drop 2).take 3 = [at_ 2, at_ 3, at_ 4] := take_drop_getD frame 2 3 (by omega)
        rw [carried, beq_iff_eq]
        simp [echoed, ho]
    refine ⟨?_, ?_, ?_, ?_, ?_, ?_⟩
    · intro h
      rw [h]
      rfl
    · intro h broken
      exact judgeReply_short h (by rwa [← whole_iff])
    · intro h address
      rw [judged h, if_pos address]
    · intro h address wrong
      rw [judged h, if_neg (not_not.2 address), if_pos wrong]
    · intro h address right echo
      rw [judged h, if_neg (not_not.2 address), if_neg (not_not.2 right), if_pos]
      exact Bool.eq_false_iff.2 fun e => echo ((echoes_iff h).1 e)
    · intro h address right echo
      rw [judged h, if_neg (not_not.2 address), if_neg (not_not.2 right), if_neg]
      rw [(echoes_iff h).2 echo]
      decide
  · intro payload r value credential
    have number : fieldAt payload 3 5 = credential := fieldAt_eq_foldr payload 3 5
    have small : credential < 2 ^ 40 := number ▸ fieldAt_lt payload 3 5
    have code (k : Nat) : fieldAt payload k 1 = value k := fieldAt_one payload k
    refine ⟨?_, ?_, ?_, ?_⟩
    · rw [← code 1, ← occupancyOf_eq]
      rfl
    · rw [← code 8, ← plugOf_eq]
      rfl
    · rw [← code 9]
      refine Bool.eq_iff_iff.2 ?_
      simp [r, readReport]
    · have zero : BitVec.ofNat 40 credential = 0 ↔ credential = 0 := by
        rw [← BitVec.toNat_inj, BitVec.toNat_ofNat, Nat.mod_eq_of_lt small]
        rfl
      have read : r.cred = if fieldAt payload 2 1 = 0 ∨ BitVec.ofNat 40 (fieldAt payload 3 5) = 0 then none
          else some (BitVec.ofNat 40 (fieldAt payload 3 5)) := rfl
      rw [read, number, code 2]
      simp only [zero]
  · intro b timeout
    refine ⟨fun r fault cred demand metered inForce aspect => ⟨?_, ?_⟩, fun o => ?_⟩
    · exact judgeReply_linkFrame (x := { bay := b, timeout := timeout, order := none }) (by rw [length_reportPayload]; rfl) rfl
    · rw [reportFrame, drop_linkFrame _ _ _ _ (length_reportPayload r)]
      exact readReport_reportPayload fault cred demand metered inForce aspect
    · refine judgeReply_linkFrame (x := { bay := b, timeout := timeout, order := some o }) rfl ?_
      unfold Exchange.echoes
      dsimp only
      rw [drop_linkFrame _ _ _ 3 rfl]
      exact beq_self_eq_true _

end

section
/-! SUPPORT. The staged bytes read as records, each check as a statement about their fields, and the first record that fails one
(R9, 12.3). -/

-- One proof after another: side by side, the package as one text takes a thread and its stack for each.
set_option Elab.async false

namespace Sys2Proof.Machine

variable {α : Type}

/-! ### Records and fields (12.3) -/

theorem fieldAt_drop (p : List Byte) (a b n : Nat) : fieldAt (p.drop a) b n = fieldAt p (a + b) n := by
  simp only [fieldAt, List.drop_drop]

theorem readRecords_eq (read : List Byte → α) (size n a : Nat) (p : List Byte) :
    readRecords read size n (p.drop a) = (List.range n).map fun k => read (p.drop (a + size * k)) := by
  induction n generalizing a with
  | zero => rfl
  | succ n ih =>
    rw [readRecords, List.drop_drop, ih (a + size), List.range_succ_eq_map, List.map_cons, List.map_map]
    congr 1
    refine List.map_congr_left fun k _ => ?_
    simp only [Function.comp_apply, Nat.mul_succ]
    congr 2
    omega

/-! ### The first item that fails (R9) -/

theorem firstFailing_eq_none {fits : List α → α → Bool} {xs : List α} (earlier : List α)
    (pass : ∀ k x, xs[k]? = some x → fits (earlier ++ xs.take k) x = true) : firstFailing fits earlier xs = none := by
  induction xs generalizing earlier with
  | nil => rfl
  | cons x xs ih =>
    have here : fits earlier x = true := by simpa using pass 0 x rfl
    rw [firstFailing, if_pos here]
    exact ih (earlier ++ [x]) fun k y hy => by simpa using pass (k + 1) y hy

theorem firstFailing_eq_some {fits : List α → α → Bool} {xs : List α} (earlier : List α) (k : Nat) (x : α) (hx : xs[k]? = some x)
    (fail : fits (earlier ++ xs.take k) x = false)
    (pass : ∀ j y, j < k → xs[j]? = some y → fits (earlier ++ xs.take j) y = true) :
    firstFailing fits earlier xs = some (earlier.length + k) := by
  induction xs generalizing earlier k with
  | nil => simp at hx
  | cons a xs ih =>
    cases k with
    | zero =>
      have here : fits earlier a = false := by
        simp only [List.getElem?_cons_zero, Option.some.injEq] at hx
        simpa [hx] using fail
      rw [firstFailing, if_neg (by rw [here]; decide)]
      rfl
    | succ k =>
      have here : fits earlier a = true := by simpa using pass 0 a (Nat.succ_pos k) rfl
      rw [firstFailing, if_pos here, ih (earlier ++ [a]) k (by simpa using hx) (by simpa using fail)
        fun j y hj hy => by simpa using pass (j + 1) y (Nat.succ_lt_succ hj) hy]
      simp only [List.length_append, List.length_cons, List.length_nil]
      congr 1
      omega

/-- The first of `n` numbered items that fails. -/
theorem firstFailing_range {fits : List α → α → Bool} {item : Nat → α} {okay : Nat → Prop} {n : Nat}
    (reads : ∀ k, k < n → (fits ((List.range k).map item) (item k) = true ↔ okay k)) :
    ((∀ k, k < n → okay k) → firstFailing fits [] ((List.range n).map item) = none) ∧
      ∀ k, k < n ∧ ¬okay k ∧ (∀ j, j < k → okay j) → firstFailing fits [] ((List.range n).map item) = some k := by
  have earlier (k : Nat) (h : k < n) : ((List.range n).map item).take k = (List.range k).map item := by
    rw [← List.map_take, List.take_range, Nat.min_eq_left (Nat.le_of_lt h)]
  have entry (k : Nat) (x : α) (hx : ((List.range n).map item)[k]? = some x) : k < n ∧ x = item k := by
    rw [List.getElem?_map] at hx
    obtain ⟨j, hj, rfl⟩ := Option.map_eq_some_iff.1 hx
    obtain ⟨inside, e⟩ := List.getElem?_eq_some_iff.1 hj
    rw [List.length_range] at inside
    rw [List.getElem_range] at e
    exact ⟨inside, by rw [e]⟩
  refine ⟨fun all => firstFailing_eq_none [] fun k x hx => ?_, fun k ⟨inside, fail, before⟩ => ?_⟩
  · obtain ⟨inside, rfl⟩ := entry k x hx
    rw [List.nil_append, earlier k inside]
    exact (reads k inside).2 (all k inside)
  · have here : ((List.range n).map item)[k]? = some (item k) := by simp [inside]
    rw [firstFailing_eq_some [] k _ here ?_ fun j y hj hy => ?_]
    · simp
    · rw [List.nil_append, earlier k inside]
      exact Bool.eq_false_iff.2 fun h => fail ((reads k inside).1 h)
    · obtain ⟨inside', rfl⟩ := entry j y hy
      rw [List.nil_append, earlier j inside']
      exact (reads j inside').2 (before j hj)

/-! ### The checks, by fields (R9) -/

theorem inRange_iff (lo hi x : Nat) : inRange lo hi x = true ↔ lo ≤ x ∧ x ≤ hi := by simp [inRange]

theorem RawFeeder.fits_iff (earlier : List RawFeeder) (x : RawFeeder) : x.fits earlier = true ↔
    x.number ≤ 15 ∧ (∀ y ∈ earlier, y.number ≠ x.number) ∧ x.limit ≤ 20000 ∧ x.quota ≤ 256 ∧ x.highMark ≤ 256 ∧
      x.lowMark ≤ 256 ∧ x.lowMark < x.highMark := by
  simp [RawFeeder.fits, inRange, and_assoc]

theorem RawBay.fits_iff (feeders : List RawFeeder) (earlier : List RawBay) (x : RawBay) : x.fits feeders earlier = true ↔
    x.number ≤ 511 ∧ (∀ y ∈ earlier, y.number ≠ x.number) ∧ x.zone ≤ 7 ∧ (∃ f ∈ feeders, f.number = x.feeder) ∧ x.kind ≤ 2 ∧
      (10 ≤ x.pmin ∧ x.pmin ≤ 500) ∧ x.pmin ≤ x.pmax ∧ x.pmax ≤ 1500 := by
  simp [RawBay.fits, inRange, and_assoc]

theorem RawAllotment.fits_iff (bays : List RawBay) (earlier : List RawAllotment) (x : RawAllotment) : x.fits bays earlier = true ↔
    (8 ≤ x.length ∧ x.length ≤ 40) ∧ x.leading % 2 ^ (40 - x.length) = 0 ∧ x.cls ≤ 2 ∧ (1 ≤ x.count ∧ x.count ≤ 32) ∧
      x.exclusive ≤ 1 ∧ x.firstBay + x.count - 1 ≤ 511 ∧
      (∀ j, j < x.count → ∃ b ∈ bays, b.number = x.firstBay + j) ∧
      ∀ y ∈ earlier, ¬(y.leading = x.leading ∧ y.length = x.length) := by
  simp [RawAllotment.fits, inRange, and_assoc, not_and_or, -not_and]

theorem zoneFits_iff (z : Nat × Nat) : zoneFits z = true ↔ z.1 ≤ 1 ∧ z.2 ≤ 1 := by simp [zoneFits, inRange]

theorem RawSite.fits_iff (x : RawSite) : x.fits = true ↔
    x.limit ≤ 65535 ∧ x.mode ≤ 1 ∧ x.wHigh ≤ 15 ∧ x.wNormal ≤ 15 ∧ x.fleetPriority ≤ 1 ∧ x.ratio ≤ 3 ∧
      (10 ≤ x.identifyTime ∧ x.identifyTime ≤ 600) ∧ (60 ≤ x.graceTime ∧ x.graceTime ≤ 3600) ∧ x.walkInReserve ≤ 255 ∧
      (60 ≤ x.defaultHold ∧ x.defaultHold ≤ 7200) ∧ x.defaultWait ≤ 14400 ∧ (600 ≤ x.defaultStay ∧ x.defaultStay ≤ 86400) ∧
      (1 ≤ x.timeout0 ∧ x.timeout0 ≤ 20) ∧ (1 ≤ x.timeout1 ∧ x.timeout1 ≤ 20) ∧ (1 ≤ x.timeout2 ∧ x.timeout2 ≤ 20) ∧
      1 ≤ x.timeout3 ∧ x.timeout3 ≤ 20 := by
  simp [RawSite.fits, inRange, and_assoc]

theorem RawPlan.wholeFits_iff (w : RawPlan) : w.wholeFits = true ↔ w.feederCount ≤ 16 ∧ w.bayCount ≤ 512 ∧
    w.allotmentCount ≤ 64 ∧ w.length = 44 + 9 * w.feederCount + 9 * w.bayCount + 11 * w.allotmentCount := by
  simp [RawPlan.wholeFits, and_assoc]

theorem RawPlan.quotasFit_iff (w : RawPlan) : w.quotasFit = true ↔ w.site.mode = 0 ∨ (w.feeders.map (·.quota)).sum ≤ 256 := by
  simp [RawPlan.quotasFit]

/-! ### The staged bytes as lists of records (12.3) -/

section
variable (staged : List Byte)

theorem feeders_readPlan : (readPlan staged).feeders =
    (List.range (readPlan staged).feederCount).map fun k => readFeeder (staged.drop (41 + 9 * k)) := readRecords_eq _ _ _ _ _

theorem bays_readPlan : (readPlan staged).bays = (List.range (readPlan staged).bayCount).map fun k =>
    readBay (staged.drop (43 + 9 * (readPlan staged).feederCount + 9 * k)) := readRecords_eq _ _ _ _ _

theorem allotments_readPlan : (readPlan staged).allotments = (List.range (readPlan staged).allotmentCount).map fun k =>
    readAllotment (staged.drop (44 + 9 * (readPlan staged).feederCount + 9 * (readPlan staged).bayCount + 11 * k)) :=
  readRecords_eq _ _ _ _ _

theorem zones_readPlan : (readPlan staged).zones = (List.range 8).map fun k =>
    (fieldAt (staged.drop (24 + 2 * k)) 0 1, fieldAt (staged.drop (24 + 2 * k)) 1 1) := readRecords_eq _ _ _ _ _

end

/-! ### The checks one after another (R9) -/

section
variable {w : RawPlan}

theorem firstFault_whole (h : ¬w.wholeFits = true) : w.firstFault = some (1, 0) := by
  unfold RawPlan.firstFault
  rw [if_pos (Bool.eq_false_iff.2 h)]

theorem firstFault_site (whole : w.wholeFits = true) (h : ¬w.site.fits = true) : w.firstFault = some (2, 0) := by
  unfold RawPlan.firstFault
  rw [if_neg (by rw [whole]; decide), if_pos (Bool.eq_false_iff.2 h)]

theorem firstFault_zones (whole : w.wholeFits = true) (site : w.site.fits = true) : w.firstFault =
    match firstFailing (fun _ => zoneFits) [] w.zones with
    | some i => some (3, i)
    | none =>
      match firstFailing RawFeeder.fits [] w.feeders with
      | some i => some (4, i)
      | none =>
        if w.quotasFit = false then some (5, 0)
        else
          match firstFailing (RawBay.fits w.feeders) [] w.bays with
          | some i => some (6, i)
          | none => (firstFailing (RawAllotment.fits w.bays) [] w.allotments).map fun i => (7, i) := by
  unfold RawPlan.firstFault
  rw [if_neg (by rw [whole]; decide), if_neg (by rw [site]; decide)] <;> rfl

end

theorem exists_mem_map_range {item : Nat → α} {n : Nat} {p : α → Prop} :
    (∃ x ∈ (List.range n).map item, p x) ↔ ∃ k, k < n ∧ p (item k) := by
  simp

theorem getElem?_map_range {item : Nat → α} {n k : Nat} (h : k < n) : ((List.range n).map item)[k]? = some (item k) := by
  simp [h]

/-! ### The plan of bytes that pass (12.3) -/

theorem SharingMode.ofCode_eq (n : Nat) : SharingMode.ofCode n = if n = 0 then .pooled else .quota := by
  cases n <;> rfl

theorem Priority.ofCode_eq (n : Nat) : Priority.ofCode n = if n = 0 then .high else .normal := by
  cases n <;> rfl

theorem RatioSetting.ofCode_eq (n : Nat) : RatioSetting.ofCode n =
    if n = 0 then .strict else if n = 1 then .eightToOne else if n = 2 then .fourToOne else .twoToOne := by
  rcases n with _ | _ | _ | n <;> rfl

theorem Kind.code_ofCode {n : Nat} (h : n ≤ 2) : (Kind.ofCode n).code = n := by
  interval_cases n <;> rfl

theorem VehicleClass.code_ofCode {n : Nat} (h : n ≤ 2) : (VehicleClass.ofCode n).code = n := by
  interval_cases n <;> rfl

/-- A flag in range is set where it is 1. -/
theorem bne_zero_eq {n : Nat} (h : n ≤ 1) : (n != 0) = decide (n = 1) := by
  interval_cases n <;> rfl

theorem RawFeeder.number_feeder {x : RawFeeder} (h : x.number ≤ 15) : x.feeder.number.val = x.number :=
  Nat.mod_eq_of_lt (Nat.lt_succ_of_le h)

theorem RawBay.bay_fields {x : RawBay} (number : x.number ≤ 511) (zone : x.zone ≤ 7) (feeder : x.feeder ≤ 15) (kind : x.kind ≤ 2) :
    x.bay.number.val = x.number ∧ x.bay.zone.val = x.zone ∧ x.bay.feeder.val = x.feeder ∧ x.bay.kind.code = x.kind :=
  ⟨Nat.mod_eq_of_lt (Nat.lt_succ_of_le number), Nat.mod_eq_of_lt (Nat.lt_succ_of_le zone),
    Nat.mod_eq_of_lt (Nat.lt_succ_of_le feeder), Kind.code_ofCode kind⟩

theorem fieldAt_byte_le (staged : List Byte) (k : Nat) : fieldAt staged k 1 ≤ 255 :=
  Nat.le_of_lt_succ (fieldAt_lt staged k 1)

theorem fieldAt_word_le (staged : List Byte) (k : Nat) : fieldAt staged k 2 ≤ 65535 :=
  Nat.le_of_lt_succ (fieldAt_lt staged k 2)

end Sys2Proof.Machine

open Sys2Proof Sys2Proof.Machine

/-- Settles O56: each check reads the fields of its records, and the first record that fails is found in their order. -/
theorem theSevenChecksOfAPlan : Obligations.TheSevenChecksOfAPlan := by
  unfold Obligations.TheSevenChecksOfAPlan
  intro staged w v within nf nb na zone feeder bay entry whole site zoneOk feederOk quotas bayOk entryOk all first
  have whole_iff : w.wholeFits = true ↔ whole := w.wholeFits_iff
  have site_iff : w.site.fits = true ↔ site := by
    rw [RawSite.fits_iff]
    have limit := fieldAt_word_le staged 0
    have reserve := fieldAt_byte_le staged 11
    have timeouts : (∀ l, l < 4 → within 1 20 (v (20 + l) 1)) ↔
        within 1 20 (v 20 1) ∧ within 1 20 (v 21 1) ∧ within 1 20 (v 22 1) ∧ within 1 20 (v 23 1) := by
      constructor
      · intro h
        exact ⟨h 0 (by decide), h 1 (by decide), h 2 (by decide), h 3 (by decide)⟩
      · rintro ⟨h0, h1, h2, h3⟩ l hl
        interval_cases l <;> assumption
    simp only [site, timeouts]
    simp only [w, readPlan, readSite, within, v, Nat.zero_le, true_and, limit, reserve]
  have zonesAre : w.zones = (List.range 8).map fun k =>
    (fieldAt (staged.drop (24 + 2 * k)) 0 1, fieldAt (staged.drop (24 + 2 * k)) 1 1) := zones_readPlan staged
  have feedersAre : w.feeders = (List.range nf).map fun k => readFeeder (staged.drop (41 + 9 * k)) := feeders_readPlan staged
  have baysAre : w.bays = (List.range nb).map fun k => readBay (staged.drop (43 + 9 * nf + 9 * k)) := bays_readPlan staged
  have entriesAre : w.allotments = (List.range na).map fun k => readAllotment (staged.drop (44 + 9 * nf + 9 * nb + 11 * k)) :=
    allotments_readPlan staged
  have zones := firstFailing_range (fits := fun _ => zoneFits) (n := 8) (okay := zoneOk)
    (item := fun k => (fieldAt (staged.drop (24 + 2 * k)) 0 1, fieldAt (staged.drop (24 + 2 * k)) 1 1)) fun k _ => by
      rw [zoneFits_iff, fieldAt_drop, fieldAt_drop]
      exact Iff.rfl
  rw [← zonesAre] at zones
  have feeders := firstFailing_range (fits := RawFeeder.fits) (n := nf) (okay := feederOk)
    (item := fun k => readFeeder (staged.drop (41 + 9 * k))) fun k _ => by
      rw [RawFeeder.fits_iff, List.forall_mem_map]
      simp only [readFeeder, fieldAt_drop, List.mem_range]
      exact Iff.rfl
  rw [← feedersAre] at feeders
  have bays := firstFailing_range (fits := RawBay.fits w.feeders) (n := nb) (okay := bayOk)
    (item := fun k => readBay (staged.drop (43 + 9 * nf + 9 * k))) fun k _ => by
      rw [RawBay.fits_iff, List.forall_mem_map, feedersAre, exists_mem_map_range]
      simp only [readBay, readFeeder, fieldAt_drop, List.mem_range]
      exact Iff.rfl
  rw [← baysAre] at bays
  have entries := firstFailing_range (fits := RawAllotment.fits w.bays) (n := na) (okay := entryOk)
    (item := fun k => readAllotment (staged.drop (44 + 9 * nf + 9 * nb + 11 * k))) fun k _ => by
      rw [RawAllotment.fits_iff, List.forall_mem_map, baysAre]
      simp only [exists_mem_map_range, readBay, readAllotment, fieldAt_drop, List.mem_range]
      exact Iff.rfl
  rw [← entriesAre] at entries
  have quotas_iff : w.quotasFit = true ↔ quotas := by
    rw [RawPlan.quotasFit_iff, feedersAre, List.map_map]
    simp only [Function.comp_def, readFeeder, fieldAt_drop]
    exact Iff.rfl
  refine ⟨fun h => firstFault_whole (mt whole_iff.1 h), fun hw h => firstFault_site (whole_iff.2 hw) (mt site_iff.1 h),
    fun k hw hs h => ?_, fun k hw hs hz h => ?_, fun hw hs hz hf h => ?_, fun k hw hs hz hf hq h => ?_,
    fun k hw hs hz hf hq hb h => ?_, fun hw hs hz hf hq hb he => ?_⟩
  · rw [firstFault_zones (whole_iff.2 hw) (site_iff.2 hs), zones.2 k h]
  · rw [firstFault_zones (whole_iff.2 hw) (site_iff.2 hs), zones.1 hz, feeders.2 k h]
  · rw [firstFault_zones (whole_iff.2 hw) (site_iff.2 hs), zones.1 hz, feeders.1 hf]
    dsimp only
    rw [if_pos (Bool.eq_false_iff.2 (mt quotas_iff.1 h))]
  · rw [firstFault_zones (whole_iff.2 hw) (site_iff.2 hs), zones.1 hz, feeders.1 hf]
    dsimp only
    rw [if_neg (by rw [quotas_iff.2 hq]; decide), bays.2 k h]
  · rw [firstFault_zones (whole_iff.2 hw) (site_iff.2 hs), zones.1 hz, feeders.1 hf]
    dsimp only
    rw [if_neg (by rw [quotas_iff.2 hq]; decide), bays.1 hb, entries.2 k h]
    rfl
  · refine ⟨?_, ?_, fun k => ?_, ?_, ?_, ?_, fun k hk => ?_, fun k hk => ?_, fun k hk => ?_⟩
    · rw [firstFault_zones (whole_iff.2 hw) (site_iff.2 hs), zones.1 hz, feeders.1 hf]
      dsimp only
      rw [if_neg (by rw [quotas_iff.2 hq]; decide), bays.1 hb, entries.1 he]
      rfl
    · have read : w.plan.site = (readSite staged).site := rfl
      rw [read]
      simp only [RawSite.site, SharingMode.ofCode_eq, Priority.ofCode_eq, RatioSetting.ofCode_eq]
      rfl
    · obtain ⟨closed, open_⟩ := hz k.val k.isLt
      have flags : w.zones.getD k.val (0, 0) = (v (zone k.val) 1, v (zone k.val + 1) 1) := by
        rw [zonesAre, List.getD_eq_getElem?_getD, getElem?_map_range k.isLt, fieldAt_drop, fieldAt_drop]
        rfl
      have read : w.plan.zones[k.val] = ⟨(w.zones.getD k.val (0, 0)).1 != 0, (w.zones.getD k.val (0, 0)).2 != 0⟩ :=
        Vector.getElem_ofFn k.isLt
      rw [read, flags, bne_zero_eq closed, bne_zero_eq open_]
    · rw [show w.plan.feeders = w.feeders.map (·.feeder) from rfl, feedersAre, List.length_map, List.length_map, List.length_range]
    · rw [show w.plan.bays = w.bays.map (·.bay) from rfl, baysAre, List.length_map, List.length_map, List.length_range]
    · rw [show w.plan.allotments = w.allotments.map (·.allotment) from rfl, entriesAre, List.length_map, List.length_map,
        List.length_range]
    · obtain ⟨number, -⟩ := hf k hk
      have read : (readFeeder (staged.drop (feeder k))).number = v (feeder k) 1 := fieldAt_drop _ _ _ _
      refine ⟨(readFeeder (staged.drop (feeder k))).feeder, ?_, ?_, fieldAt_drop _ _ _ _, fieldAt_drop _ _ _ _, fieldAt_drop _ _ _ _,
        fieldAt_drop _ _ _ _⟩
      · rw [show w.plan.feeders = w.feeders.map (·.feeder) from rfl, feedersAre, List.getElem?_map, getElem?_map_range hk]
        rfl
      · rw [RawFeeder.number_feeder (read ▸ number), read]
    · obtain ⟨number, -, zone_, ⟨f, hf', on⟩, kind, -⟩ := hb k hk
      have feeder_ : v (bay k + 3) 1 ≤ 15 := on ▸ (hf f hf').1
      have readNumber : (readBay (staged.drop (bay k))).number = v (bay k) 2 := fieldAt_drop _ _ _ _
      have readZone : (readBay (staged.drop (bay k))).zone = v (bay k + 2) 1 := fieldAt_drop _ _ _ _
      have readFeeder_ : (readBay (staged.drop (bay k))).feeder = v (bay k + 3) 1 := fieldAt_drop _ _ _ _
      have readKind : (readBay (staged.drop (bay k))).kind = v (bay k + 4) 1 := fieldAt_drop _ _ _ _
      obtain ⟨number', zone', feeder', kind'⟩ := RawBay.bay_fields (x := readBay (staged.drop (bay k))) (readNumber ▸ number)
        (readZone ▸ zone_) (readFeeder_ ▸ feeder_) (readKind ▸ kind)
      refine ⟨(readBay (staged.drop (bay k))).bay, ?_, number'.trans readNumber, zone'.trans readZone, feeder'.trans readFeeder_,
        kind'.trans readKind, fieldAt_drop _ _ _ _, fieldAt_drop _ _ _ _⟩
      rw [show w.plan.bays = w.bays.map (·.bay) from rfl, baysAre, List.getElem?_map, getElem?_map_range hk]
      rfl
    · obtain ⟨-, -, cls, -, exclusive, -⟩ := he k hk
      have readLeading : (readAllotment (staged.drop (entry k))).leading = v (entry k) 5 := fieldAt_drop _ _ _ _
      have readCls : (readAllotment (staged.drop (entry k))).cls = v (entry k + 6) 1 := fieldAt_drop _ _ _ _
      have readExclusive : (readAllotment (staged.drop (entry k))).exclusive = v (entry k + 10) 1 := fieldAt_drop _ _ _ _
      refine ⟨(readAllotment (staged.drop (entry k))).allotment, ?_, ?_, fieldAt_drop _ _ _ _, ?_, fieldAt_drop _ _ _ _,
        fieldAt_drop _ _ _ _, ?_⟩
      · rw [show w.plan.allotments = w.allotments.map (·.allotment) from rfl, entriesAre, List.getElem?_map, getElem?_map_range hk]
        rfl
      · have small : (readAllotment (staged.drop (entry k))).leading < 2 ^ 40 := readLeading ▸ fieldAt_lt staged (entry k) 5
        exact (Nat.mod_eq_of_lt small).trans readLeading
      · exact (VehicleClass.code_ofCode (readCls ▸ cls)).trans readCls
      · exact (bne_zero_eq (readExclusive ▸ exclusive)).trans (by rw [readExclusive])

end
